-- ==== Sys2Proof/Word.lean ====
section
/-! DEFINITION. The word types of the engine (00 R9, R10): bytes, 7-bit register addresses, 32-bit times, symbol patterns. -/

namespace Sys2Proof

/-- A byte (00 R9). -/
abbrev Byte := BitVec 8

/-- A transceiver register address, 7 bits (20 R60). -/
abbrev RegAddr := BitVec 7

/-- A reading of the time base, a 32-bit count of microseconds (60 R235). -/
abbrev Time := BitVec 32

/-- A bit pattern of `n` symbols (00 R10): element 0 is the leftmost character, sent first; `true` is the symbol 1. -/
abbrev Pattern (n : Nat) := Vector Bool n

/-- A payload: PAYLOAD_LEN = 51 symbols (00 R7). -/
abbrev Payload := Pattern 51

/-- A frame: FRAME_LEN = 166 symbols (00 R7). -/
abbrev Frame := Pattern 166

end Sys2Proof
end

