-- ==== Sys2Proof/Config.lean ====
section
/-! DEFINITION. The parameters of the block (00 R7, 10 R44), the configuration this hardware takes, and the values the spec leaves open. -/

namespace Sys2Proof

/-- The register of one entry of PA_WRITES: REG_PALEVEL or REG_OCP by its name, or an address of its own (92 D7, D9). -/
inductive PaReg where
  | palevel | ocp
  | addr (a : RegAddr)
  deriving DecidableEq, Repr

/-- The parameters of 00 R7 that a configuration may set. The fixed values of that table (mode values, identification
byte, pattern lengths) are not here. Addresses are 7 bits and patterns have their lengths by type, so an address of 0x80 or
more and a pattern of another length cannot be written down (00 R8, 93 I22). -/
structure Config where
  /-- SYMBOL_US -/
  symbolUs : Nat
  /-- GAP_US -/
  gapUs : Nat
  /-- REPS -/
  reps : Nat
  /-- PREAMBLE, 33 symbols (92 D4) -/
  preamble : Pattern 33
  /-- SYNC_PHRASE, 82 symbols (92 D5) -/
  syncPhrase : Pattern 82
  /-- PAYLOAD, one for each of the ten command codes (92 D6) -/
  payloads : Vector Payload 10
  /-- F_TARGET_HZ -/
  fTargetHz : Nat
  /-- F_XTAL_HZ -/
  fXtalHz : Nat
  /-- BITRATE_BPS -/
  bitrateBps : Nat
  /-- TIMEOUT_US (92 D27) -/
  timeoutUs : Nat
  /-- REG_OPMODE -/
  regOpmode : RegAddr
  /-- REG_DATAMODUL -/
  regDatamodul : RegAddr
  /-- REG_BITRATE_MSB -/
  regBitrateMsb : RegAddr
  /-- REG_BITRATE_LSB -/
  regBitrateLsb : RegAddr
  /-- REG_FRF_MSB, the first of three consecutive registers (20 R63) -/
  regFrfMsb : RegAddr
  /-- REG_VERSION -/
  regVersion : RegAddr
  /-- REG_PALEVEL -/
  regPalevel : RegAddr
  /-- REG_OCP -/
  regOcp : RegAddr
  /-- REG_CLKOUT -/
  regClkout : RegAddr
  /-- REG_STATUS -/
  regStatus : RegAddr
  /-- VAL_DATAMODUL (92 D8) -/
  valDatamodul : Byte
  /-- PA_WRITES, in the order they are written (92 D9); `Config.paWrites` has the addresses -/
  paEntries : List (PaReg × Byte)
  /-- VAL_CLKOUT_OFF (92 D10) -/
  valClkoutOff : Byte
  /-- BEGIN_ENTERS_STANDBY (92 D11) -/
  beginEntersStandby : Bool
  /-- T_RST_PULSE_US (92 D12) -/
  tRstPulseUs : Nat
  /-- T_RST_WAIT_US (92 D12) -/
  tRstWaitUs : Nat
  /-- T_POLL_MIN_US less one, so that the parameter is positive by type (92 D15; log 8) -/
  tPollMinPred : Nat
  /-- SYMBOL_TOL_US (92 D16) -/
  symbolTolUs : Nat
  deriving DecidableEq, Repr

/-- T_POLL_MIN_US, any positive number (60 R236; log 8). -/
def Config.tPollMinUs (c : Config) : Nat := c.tPollMinPred + 1

/-- The address an entry of PA_WRITES names. -/
def Config.paAddr (c : Config) : PaReg → RegAddr
  | .palevel => c.regPalevel
  | .ocp => c.regOcp
  | .addr a => a

/-- PA_WRITES as the register writes of step B10 (42 R177 step 4). -/
def Config.paWrites (c : Config) : List (RegAddr × Byte) := c.paEntries.map (fun w => (c.paAddr w.1, w.2))

/-! ### Values the spec leaves open: no body, so nothing can be proved of them -/

/-- OPEN: SYNC_PHRASE of this hardware (92 D5; log 9). -/
opaque Config.openSyncPhrase : Pattern 82

/-- OPEN: PAYLOAD of this hardware (92 D6; log 9). -/
opaque Config.openPayloads : Vector Payload 10

/-- OPEN: T_POLL_MIN_US less one (92 D15; log 8). -/
opaque Config.openPollMinPred : Nat

/-- OPEN: SYMBOL_TOL_US (92 D16; log 10). -/
opaque Config.openSymbolTol : Nat

/-- The `n`-th free answer of the transceiver, for a read of register `a` (10 R40, 42 R151; log 6). -/
opaque Config.busAnswer : Nat → RegAddr → Byte

/-- The `n`-th free reading of the time base (60 R235; log 7). -/
opaque Config.timeReading : Nat → Time

/-! ### This hardware -/

/-- The default PREAMBLE `100010001000100010001000100010001` (92 D4, 30 R89): symbol 1 at the positions divisible by 4. -/
def Config.defaultPreamble : Pattern 33 :=
  #v[true, false, false, false, true, false, false, false, true, false, false, false, true, false, false, false,
     true, false, false, false, true, false, false, false, true, false, false, false, true, false, false, false, true]

/-- The configuration this hardware takes: every default of 00 R7, the OPEN parameters opaque. -/
def Config.hw : Config where
  symbolUs := 300
  gapUs := 8800
  reps := 5
  preamble := Config.defaultPreamble
  syncPhrase := Config.openSyncPhrase
  payloads := Config.openPayloads
  fTargetHz := 433920000
  fXtalHz := 32000000
  bitrateBps := 3333
  timeoutUs := 10000
  regOpmode := 0x01
  regDatamodul := 0x02
  regBitrateMsb := 0x03
  regBitrateLsb := 0x04
  regFrfMsb := 0x07
  regVersion := 0x10
  regPalevel := 0x11
  regOcp := 0x13
  regClkout := 0x26
  regStatus := 0x27
  valDatamodul := 0x68
  paEntries := [(.palevel, 0x5F), (.ocp, 0x1A)]
  valClkoutOff := 0x07
  beginEntersStandby := true
  tRstPulseUs := 100
  tRstWaitUs := 5000
  tPollMinPred := Config.openPollMinPred
  symbolTolUs := Config.openSymbolTol

end Sys2Proof
end

