-- ==== Sys2Proof/Syntax.lean ====
section
/-! DEFINITION. The instructions of the engine: one constructor for each row of spec/opcode_table.json (30 R100). -/

namespace Sys2Proof

/-- The transceiver modes the block commands (00 R7, 10 R38). -/
inductive Mode where
  | sleep | standby | transmit
  deriving DecidableEq, Repr

/-- The output pins PIN_WRITE may name (41 R137). -/
inductive Pin where
  | cs | reset | data
  deriving DecidableEq, Repr

/-- The forty rows of the opcode table. Request words whose class leaves bits free carry those bits; bus frames carry their
address and value; internal operations carry the operands of their rules. -/
inductive Instr where
  /-- NOP, 0x00 (43 R196) -/
  | nop
  /-- BEGIN, 0x40 (43 R192) -/
  | begin
  /-- SEND 0x0 (43 R193) -/
  | sendLightToggle
  /-- SEND 0x1 -/
  | sendFanToggle
  /-- SEND 0x2 -/
  | sendLightDown
  /-- SEND 0x3 -/
  | sendLightUp
  /-- SEND 0x4 -/
  | sendFan1
  /-- SEND 0x5 -/
  | sendFan2
  /-- SEND 0x6 -/
  | sendFan3
  /-- SEND 0x7 -/
  | sendFan4
  /-- SEND 0x8 -/
  | sendFan5
  /-- SEND 0x9 -/
  | sendFan6
  /-- SEND 0xA, a code with no payload (30 R86) -/
  | sendUndefined10
  /-- SEND 0xB, a code with no payload -/
  | sendUndefined11
  /-- SEND 0xC, a code with no payload -/
  | sendUndefined12
  /-- SEND 0xD, a code with no payload -/
  | sendUndefined13
  /-- SEND 0xE, a code with no payload -/
  | sendUndefined14
  /-- SEND 0xF, a code with no payload -/
  | sendUndefined15
  /-- STATUS, 0xC0 (43 R194) -/
  | status
  /-- a reserved word with rsv = 01 (30 R82 case 1) -/
  | reservedRsv01 (op : BitVec 2) (arg : BitVec 4)
  /-- a reserved word with rsv = 10 -/
  | reservedRsv10 (op : BitVec 2) (arg : BitVec 4)
  /-- a reserved word with rsv = 11 -/
  | reservedRsv11 (op : BitVec 2) (arg : BitVec 4)
  /-- a reserved word with op = 00 and arg ≠ 0 (30 R82 case 3) -/
  | reservedOp00Arg (arg : BitVec 4)
  /-- a reserved word with op = 01 and arg ≠ 0 -/
  | reservedOp01Arg (arg : BitVec 4)
  /-- a reserved word with op = 11 and arg ≠ 0 -/
  | reservedOp11Arg (arg : BitVec 4)
  /-- BUS_READ (42 R151) -/
  | busRead (addr : RegAddr)
  /-- BUS_WRITE (42 R152) -/
  | busWrite (addr : RegAddr) (value : Byte)
  /-- the frame 0x81 0x00 (30 R95, 42 R160) -/
  | modeSleep
  /-- the frame 0x81 0x04 -/
  | modeStandby
  /-- the frame 0x81 0x0C -/
  | modeTransmit
  /-- CATALOG_LOOKUP (40 R110) -/
  | catalogLookup (code : BitVec 4)
  /-- BUILD_FRAME (40 R120) -/
  | buildFrame (payload : Option Payload)
  /-- TRANSMIT_FRAME, of the frame in `fbuf` (41 R130) -/
  | transmitFrame
  /-- PIN_WRITE (41 R137) -/
  | pinWrite (pin : Pin) (level : Bool)
  /-- HOLD (41 R138) -/
  | hold (us : Nat)
  /-- ENTER_MODE (42 R160), of which ENTER_STANDBY, ENTER_TRANSMIT and ENTER_SLEEP are the three cases (42 R162 to R164) -/
  | enterMode (mode : Mode)
  /-- WAIT_MODE_READY (42 R161) -/
  | waitModeReady (mode : Mode)
  /-- RESET_PULSE (42 R175) -/
  | resetPulse
  /-- CHECK_ID (42 R176) -/
  | checkId
  /-- CONFIGURE_RADIO (42 R177) -/
  | configureRadio
  deriving DecidableEq, Repr

end Sys2Proof
end

