-- ==== Sys2Proof/WellFormed.lean ====
section
/-! DEFINITION. Which terms of `Instr` are instructions: the operand ranges of spec/opcode_table.json and of the operation rules. -/

namespace Sys2Proof

/-- The register writes that have a row of their own: the three mode writes to the default REG_OPMODE (30 R92, R95). -/
def isModeWrite (a : RegAddr) (v : Byte) : Bool :=
  a == Config.hw.regOpmode && (v == 0x00 || v == 0x04 || v == 0x0C)

/-- An instruction's operands are in the ranges of its row.
* A reserved class with op 00, 01 or 11 excludes arg = 0, which is NOP, BEGIN or STATUS (30 R82, R100).
* BUS_WRITE excludes the three frames that are mode writes, whose rows take precedence (30 R100).
* A hold lasts more than 0 µs (41 R138). -/
def Instr.wf : Instr → Bool
  | .nop | .begin | .status => true
  | .sendLightToggle | .sendFanToggle | .sendLightDown | .sendLightUp => true
  | .sendFan1 | .sendFan2 | .sendFan3 | .sendFan4 | .sendFan5 | .sendFan6 => true
  | .sendUndefined10 | .sendUndefined11 | .sendUndefined12 => true
  | .sendUndefined13 | .sendUndefined14 | .sendUndefined15 => true
  | .reservedRsv01 _ _ | .reservedRsv10 _ _ | .reservedRsv11 _ _ => true
  | .reservedOp00Arg arg | .reservedOp01Arg arg | .reservedOp11Arg arg => arg != 0
  | .busRead _ => true
  | .busWrite a v => !isModeWrite a v
  | .modeSleep | .modeStandby | .modeTransmit => true
  | .catalogLookup _ | .buildFrame _ | .transmitFrame => true
  | .pinWrite _ _ => true
  | .hold us => us != 0
  | .enterMode _ | .waitModeReady _ | .resetPulse | .checkId | .configureRadio => true

/-- The instruction has a binary form (30 R99: the internal operations have none). -/
def Instr.hasEncoding : Instr → Bool
  | .catalogLookup _ | .buildFrame _ | .transmitFrame | .pinWrite _ _ | .hold _ => false
  | .enterMode _ | .waitModeReady _ | .resetPulse | .checkId | .configureRadio => false
  | .nop | .begin | .status => true
  | .sendLightToggle | .sendFanToggle | .sendLightDown | .sendLightUp => true
  | .sendFan1 | .sendFan2 | .sendFan3 | .sendFan4 | .sendFan5 | .sendFan6 => true
  | .sendUndefined10 | .sendUndefined11 | .sendUndefined12 => true
  | .sendUndefined13 | .sendUndefined14 | .sendUndefined15 => true
  | .reservedRsv01 _ _ | .reservedRsv10 _ _ | .reservedRsv11 _ _ => true
  | .reservedOp00Arg _ | .reservedOp01Arg _ | .reservedOp11Arg _ => true
  | .busRead _ | .busWrite _ _ | .modeSleep | .modeStandby | .modeTransmit => true

end Sys2Proof
end

