-- ==== Sys2Proof/Decode.lean ====
section
/-! DEFINITION. The decoders of the block's two binary interfaces and the encoder (30 R80 to R92). One byte is a request word of the host port; two bytes are a bus frame, byte 0 first. -/

namespace Sys2Proof

/-- Why bytes are no instruction. Raised by `decode` only; safe, since every request word and every two-byte frame decodes. -/
inductive Reject where
  /-- no byte at all -/
  | empty
  /-- more bytes than the longest form has (30 R91: no variable-length form exists) -/
  | tooLong (bytes : Nat)
  deriving DecidableEq, Repr

/-! ### Request words -/

/-- `op = w[7:6]` (30 R84). -/
def reqOp (w : Byte) : BitVec 2 := w.extractLsb' 6 2

/-- `rsv = w[5:4]` (30 R84). -/
def reqRsv (w : Byte) : BitVec 2 := w.extractLsb' 4 2

/-- `arg = w[3:0]` (30 R84). -/
def reqArg (w : Byte) : BitVec 4 := w.extractLsb' 0 4

/-- The SEND row of a command code (30 R85, R86, R100). -/
def sendOfCode (c : BitVec 4) : Instr :=
  match c.toNat with
  | 0 => .sendLightToggle
  | 1 => .sendFanToggle
  | 2 => .sendLightDown
  | 3 => .sendLightUp
  | 4 => .sendFan1
  | 5 => .sendFan2
  | 6 => .sendFan3
  | 7 => .sendFan4
  | 8 => .sendFan5
  | 9 => .sendFan6
  | 10 => .sendUndefined10
  | 11 => .sendUndefined11
  | 12 => .sendUndefined12
  | 13 => .sendUndefined13
  | 14 => .sendUndefined14
  | _ => .sendUndefined15

/-- Decoding a request word: total over the 256 values, the first case that matches decides (30 R82). -/
def decodeRequest (w : Byte) : Instr :=
  if reqRsv w = 1 then .reservedRsv01 (reqOp w) (reqArg w)
  else if reqRsv w = 2 then .reservedRsv10 (reqOp w) (reqArg w)
  else if reqRsv w = 3 then .reservedRsv11 (reqOp w) (reqArg w)
  else if reqOp w = 0 then (if reqArg w = 0 then .nop else .reservedOp00Arg (reqArg w))
  else if reqOp w = 1 then (if reqArg w = 0 then .begin else .reservedOp01Arg (reqArg w))
  else if reqOp w = 3 then (if reqArg w = 0 then .status else .reservedOp11Arg (reqArg w))
  else sendOfCode (reqArg w)

/-! ### Bus frames -/

/-- The direction flag, bit 7 of byte 0: `true` is a write (30 R91). -/
def frameDir (b0 : Byte) : Bool := b0.getLsbD 7

/-- The address, bits 6..0 of byte 0 (20 R60). -/
def frameAddr (b0 : Byte) : RegAddr := b0.extractLsb' 0 7

/-- Decoding a bus frame. Byte 0 bit 7 alone tells a read from a write (30 R91), so a read's filler byte is not looked at
(30 R90: don't-care; log 17). A write of a mode value to the default REG_OPMODE is its own row (30 R100). -/
def decodeFrame (b0 b1 : Byte) : Instr :=
  if frameDir b0 then
    if frameAddr b0 = Config.hw.regOpmode ∧ b1 = 0x00 then .modeSleep
    else if frameAddr b0 = Config.hw.regOpmode ∧ b1 = 0x04 then .modeStandby
    else if frameAddr b0 = Config.hw.regOpmode ∧ b1 = 0x0C then .modeTransmit
    else .busWrite (frameAddr b0) b1
  else .busRead (frameAddr b0)

/-- The instruction that bytes stand for, in the order they are sent: total, rejecting by name. -/
def decode : List Byte → Except Reject Instr
  | [] => .error .empty
  | [w] => .ok (decodeRequest w)
  | [b0, b1] => .ok (decodeFrame b0 b1)
  | bs => .error (.tooLong bs.length)

/-! ### The encoder, written from the tables of 30 R80, R81, R85 and R90 -/

/-- The request word with fields `op`, `rsv`, `arg` (30 R80). -/
def requestWord (op rsv : BitVec 2) (arg : BitVec 4) : Byte := (op ++ rsv) ++ arg

/-- The word of SEND with code `c`: 0x80 + code (30 R97). -/
def sendWord (c : BitVec 4) : Byte := requestWord 2 0 c

/-- Byte 0 of a frame: the direction flag, then the address (30 R90). -/
def frameByte0 (write : Bool) (a : RegAddr) : Byte := BitVec.ofBool write ++ a

/-- The two bytes sent for a read: the address with its high bit clear, then the filler 0x00 (30 R90). -/
def readFrame (a : RegAddr) : List Byte := [frameByte0 false a, 0x00]

/-- The two bytes sent for a write: the address with its high bit set, then the value (30 R90). -/
def writeFrame (a : RegAddr) (v : Byte) : List Byte := [frameByte0 true a, v]

/-- The bytes of an instruction, in the order they are sent; none for an internal operation (30 R99). -/
def encode : Instr → List Byte
  | .nop => [requestWord 0 0 0]
  | .begin => [requestWord 1 0 0]
  | .sendLightToggle => [sendWord 0]
  | .sendFanToggle => [sendWord 1]
  | .sendLightDown => [sendWord 2]
  | .sendLightUp => [sendWord 3]
  | .sendFan1 => [sendWord 4]
  | .sendFan2 => [sendWord 5]
  | .sendFan3 => [sendWord 6]
  | .sendFan4 => [sendWord 7]
  | .sendFan5 => [sendWord 8]
  | .sendFan6 => [sendWord 9]
  | .sendUndefined10 => [sendWord 10]
  | .sendUndefined11 => [sendWord 11]
  | .sendUndefined12 => [sendWord 12]
  | .sendUndefined13 => [sendWord 13]
  | .sendUndefined14 => [sendWord 14]
  | .sendUndefined15 => [sendWord 15]
  | .status => [requestWord 3 0 0]
  | .reservedRsv01 op arg => [requestWord op 1 arg]
  | .reservedRsv10 op arg => [requestWord op 2 arg]
  | .reservedRsv11 op arg => [requestWord op 3 arg]
  | .reservedOp00Arg arg => [requestWord 0 0 arg]
  | .reservedOp01Arg arg => [requestWord 1 0 arg]
  | .reservedOp11Arg arg => [requestWord 3 0 arg]
  | .busRead a => readFrame a
  | .busWrite a v => writeFrame a v
  | .modeSleep => writeFrame Config.hw.regOpmode 0x00
  | .modeStandby => writeFrame Config.hw.regOpmode 0x04
  | .modeTransmit => writeFrame Config.hw.regOpmode 0x0C
  | .catalogLookup _ | .buildFrame _ | .transmitFrame | .pinWrite _ _ | .hold _ => []
  | .enterMode _ | .waitModeReady _ | .resetPulse | .checkId | .configureRadio => []

/-! ### The opcode table's numbering -/

/-- The bytes of a table word, in the order they are sent. The table numbers a REQ8 row's word as its one byte, and a BUS16
row's frame as one 16-bit number whose bits 15..8 are byte 0 (opcode_table.json: match 0x8100 is the pair 0x81, 0x00). -/
def tableBytes (nbits w : Nat) : List Byte :=
  if nbits ≤ 8 then [BitVec.ofNat 8 w] else [BitVec.ofNat 8 (w / 256), BitVec.ofNat 8 w]

/-- The instruction the decoder reads from a word numbered as the opcode table numbers it. -/
def decodeTableWord (nbits w : Nat) : Option Instr :=
  if nbits = 0 ∨ 16 < nbits then none
  else match decode (tableBytes nbits w) with
    | .ok i => some i
    | .error _ => none

end Sys2Proof
end

