-- ==== Sys2Proof/Machine/State.lean ====
section
/-! DEFINITION. The state of the engine as plain data: the record of 10 R21, the event trace of 00 R12, the pseudocode's own variables, and the inputs the other agents will give. -/

namespace Sys2Proof.Machine

/-- The readiness latch `rstate` (10 R24); the code 0b11 is never held. -/
inductive Readiness where
  | uninit | ready | faulted
  deriving DecidableEq, Repr

/-- The host operation in progress, `op` (10 R22). -/
inductive Op where
  | none | begin | send | status
  deriving DecidableEq, Repr

/-- The step labels, values of `step` (10 R22). -/
inductive Step where
  | b1 | b2 | b3 | b4 | b5 | b6 | b7 | b8 | b9 | b10 | b11 | b12 | b13 | b14
  | s1 | s2 | s3 | s4 | s5 | s6 | s7 | s8 | s9
  | t1
  deriving DecidableEq, Repr

/-- The outcome codes of `err` (10 R28); code 7 is reserved and never written. -/
inductive ErrCode where
  | none | idMismatch | timeoutStandby | timeoutTransmit | timeoutSleep | notReady | unknownCmd
  deriving DecidableEq, Repr

/-- The position inside a step of more than one event, the model's refinement of the pc (10 R22: "Inside step S6 the
symbol loop adds rep and idx. Inside every mode entry the poll loop adds t0 and pmode"; log 15). -/
inductive Sub where
  /-- the `k`-th action of a straight-line step -/
  | item (k : Nat)
  /-- a mode entry: the write of REG_OPMODE is next (42 R160) -/
  | modeWrite
  /-- the poll: the reading of `t0` is next (42 R161) -/
  | pollStart
  /-- the poll: the status read is next -/
  | pollRead
  /-- the poll: the time test is next -/
  | pollTest
  /-- the symbol loop: the pin write of symbol `idx` is next (41 R130) -/
  | symPin
  /-- the symbol loop: the hold of symbol `idx` is next -/
  | symHold
  /-- the symbol loop: the low write after a repetition is next -/
  | gapPin
  /-- the symbol loop: the gap after a repetition is next -/
  | gapHold
  deriving DecidableEq, Repr

/-- The events of the trace (00 R12). -/
inductive Event where
  /-- `Pin(p, l)`: a pin write -/
  | pin (p : Pin) (l : Bool)
  /-- `Hold(d)`: a timed hold of `d` µs -/
  | hold (us : Nat)
  /-- `BusW(a, v)`: a write transaction -/
  | busW (a : RegAddr) (v : Byte)
  /-- `BusR(a, v)`: a read transaction answered with `v` -/
  | busR (a : RegAddr) (v : Byte)
  /-- `Time(t)`: a time-base reading -/
  | time (t : Time)
  /-- `Done(op, r)`: completion of a host operation -/
  | done (op : Op) (r : Bool)
  /-- `Req(w)`: an accepted request word -/
  | req (w : Byte)
  /-- `Reset`: the reset input -/
  | reset
  deriving DecidableEq, Repr

/-- What the host does at one instant (30 R83, 70 R251; log 3). -/
inductive HostIn where
  /-- nothing is presented -/
  | idle
  /-- `req_valid` = 1 with this word -/
  | word (w : Byte)
  /-- the reset input is asserted -/
  | reset
  deriving DecidableEq, Repr

/-- The state. Fields of the spec first (10 R21), then the trace, then the model's own. -/
structure State where
  /-- 10 R24 -/
  rstate : Readiness
  /-- 10 R23 -/
  busy : Bool
  /-- 10 R22 -/
  op : Op
  /-- 10 R22; `none` when no operation is in progress -/
  step : Option Step
  /-- 10 R27 -/
  done : Bool
  /-- 10 R27 -/
  result : Bool
  /-- 10 R28 -/
  err : ErrCode
  /-- 10 R29 -/
  idSeen : Byte
  /-- 10 R36 -/
  cmd : BitVec 4
  /-- 10 R36 -/
  fbuf : Frame
  /-- 10 R37, 3 bits -/
  rep : Fin 8
  /-- 10 R37, 0..FRAME_LEN-1 -/
  idx : Fin 166
  /-- 10 R38 -/
  t0 : Time
  /-- 10 R38 -/
  pmode : Mode
  /-- 10 R39; `none` is UNKNOWN -/
  radioMode : Option Byte
  /-- 10 R32 -/
  pinCs : Bool
  /-- 10 R33 -/
  pinReset : Bool
  /-- 10 R31 -/
  pinData : Bool
  /-- 10 R34: the level on the IRQ input, which no rule reads (log 11) -/
  irq : Bool
  /-- 00 R12, oldest event first (log 1) -/
  trace : List Event
  /-- position inside the step (log 15) -/
  sub : Sub
  /-- time tests made in the current poll, the `k` of 60 R236 (log 15) -/
  pollK : Nat
  /-- BEGIN's local `r` (43 R192; log 15) -/
  r : Bool
  /-- the Bool the last internal operation returned (42 R160, R161, R176, R177; log 15) -/
  ok : Bool
  /-- the byte the last BusRead returned (42 R151; log 15) -/
  rdata : Byte
  /-- what the last CatalogLookup returned (43 R193 S3; log 15) -/
  lookup : Option Payload
  /-- what the last BuildFrame returned (43 R193 S4; log 15) -/
  built : Option Frame
  /-- what the host does at the next instants (log 3) -/
  hostIn : List HostIn
  /-- a bus frame the register interface is made to run next, byte 0 in bits 15..8 (log 5) -/
  issue : Option (BitVec 16)
  /-- the transceiver's next answers (10 R40; log 6) -/
  busIn : List Byte
  /-- answers drawn from `Config.busAnswer` so far (log 6) -/
  busDraws : Nat
  /-- the time base's next readings (60 R235; log 7) -/
  timeIn : List Time
  /-- readings drawn from `Config.timeReading` so far (log 7) -/
  timeDraws : Nat
  deriving DecidableEq, Repr

/-- Faults. The block itself has none (60 R220). -/
inductive Fault where
  /-- Raised by `step` alone, in a state that is busy with no step to run, which no rule describes and no run from reset
  reaches (log 19). Safe. -/
  | lostStep
  deriving DecidableEq, Repr

/-- Refusals. -/
inductive Refusal where
  /-- Raised by an arm of `exec` whose instruction has no meaning yet. Safe. -/
  | notModelled (mnemonic : String)
  /-- Raised by `construct` for a configuration that is not well formed (00 R8, 93 I22; log 20). Safe. -/
  | illFormedConfig
  deriving DecidableEq, Repr

/-- The machine right after the reset input (70 R250, 10 R21). Its trace holds the `Reset` event that asserting reset
appends. The fields of the model's own are at the values of logs 3 to 7, 11 and 15. -/
def State.reset : State where
  rstate := .uninit
  busy := false
  op := .none
  step := none
  done := false
  result := false
  err := .none
  idSeen := 0x00
  cmd := 0
  fbuf := Vector.replicate 166 false
  rep := 0
  idx := 0
  t0 := 0
  pmode := .sleep
  radioMode := none
  pinCs := true
  pinReset := false
  pinData := false
  irq := false
  trace := [.reset]
  sub := .item 0
  pollK := 0
  r := false
  ok := false
  rdata := 0x00
  lookup := none
  built := none
  hostIn := []
  issue := none
  busIn := []
  busDraws := 0
  timeIn := []
  timeDraws := 0

end Sys2Proof.Machine
end

