-- ==== Sys2Proof/Machine/Flags.lean ====
section
/-! DEFINITION. Every status computation of the spec: the ready output, the codes of `rstate` and `err`, the mode-ready bit, the identification test, the timeout test and its error code. -/

namespace Sys2Proof.Machine

/-- The `ready` output: 1 exactly when `rstate` = READY (10 R25). -/
def readyOut (s : State) : Bool := s.rstate == .ready

/-- The 2-bit code of `rstate` (10 R24). -/
def readinessCode : Readiness → BitVec 2
  | .uninit => 0b00
  | .ready => 0b01
  | .faulted => 0b10

/-- The 3-bit code of `err` (10 R28). -/
def errCode : ErrCode → BitVec 3
  | .none => 0
  | .idMismatch => 1
  | .timeoutStandby => 2
  | .timeoutTransmit => 3
  | .timeoutSleep => 4
  | .notReady => 5
  | .unknownCmd => 6

/-- READY_BIT: of the byte read from REG_STATUS only bit 7 is tested, and 1 means mode-ready (30 R96, 10 R42). -/
def modeReady (v : Byte) : Bool := v.getLsbD 7

/-- ID_EXPECTED (00 R7). -/
def idExpected : Byte := 0x24

/-- The identification test: equality of all 8 bits with 0x24 (30 R94). -/
def idMatches (v : Byte) : Bool := v == idExpected

/-- The time since `t0`, modulo 2^32 (60 R235). -/
def elapsedUs (t0 t : Time) : Nat := (t - t0).toNat

/-- The poll's time test `(t - t0) mod 2^32 >= TIMEOUT_US` (42 R161). -/
def timedOut (cfg : Config) (t0 t : Time) : Bool := decide (cfg.timeoutUs ≤ elapsedUs t0 t)

/-- TIMEOUT_CODE(m) (42 R161). -/
def timeoutCode : Mode → ErrCode
  | .standby => .timeoutStandby
  | .transmit => .timeoutTransmit
  | .sleep => .timeoutSleep

end Sys2Proof.Machine
end

