-- ==== Sys2Proof/Machine/Operands.lean ====
section
/-! DEFINITION. The operand values the block computes: mode values, configuration words and their bytes, the well-formedness of a configuration. -/

namespace Sys2Proof.Machine

/-- MODEVAL(m): the three values the block writes to REG_OPMODE (30 R95, 42 R160). -/
def modeVal : Mode → Byte
  | .sleep => 0x00
  | .standby => 0x04
  | .transmit => 0x0C

/-- FREQ_WORD = floor(F_TARGET_HZ × 2^19 / F_XTAL_HZ), on unbounded naturals (42 R170). -/
def freqWord (cfg : Config) : Nat := cfg.fTargetHz * 2 ^ 19 / cfg.fXtalHz

/-- BITRATE_WORD = floor(F_XTAL_HZ / BITRATE_BPS) (42 R171). -/
def bitrateWord (cfg : Config) : Nat := cfg.fXtalHz / cfg.bitrateBps

/-- Byte `k` of a word, byte 0 the least significant: bits `8k+7..8k` (00 R9). -/
def byteOf (w k : Nat) : Byte := BitVec.ofNat 8 (w / 2 ^ (8 * k))

/-- The three frequency writes of step B8, most significant byte first across three consecutive registers (20 R63). -/
def freqWrites (cfg : Config) : List (RegAddr × Byte) :=
  [(cfg.regFrfMsb, byteOf (freqWord cfg) 2), (cfg.regFrfMsb + 1, byteOf (freqWord cfg) 1),
   (cfg.regFrfMsb + 2, byteOf (freqWord cfg) 0)]

/-- The two bit-rate writes of step B9, most significant byte first (20 R63). -/
def bitrateWrites (cfg : Config) : List (RegAddr × Byte) :=
  [(cfg.regBitrateMsb, byteOf (bitrateWord cfg) 1), (cfg.regBitrateLsb, byteOf (bitrateWord cfg) 0)]

/-- The configuration writes, steps B7 to B11 in order (42 R177 steps 1 to 5). -/
def configWrites (cfg : Config) : List (RegAddr × Byte) :=
  [(cfg.regDatamodul, cfg.valDatamodul)] ++ freqWrites cfg ++ bitrateWrites cfg ++ cfg.paWrites
    ++ [(cfg.regClkout, cfg.valClkoutOff)]

/-- A configuration is well formed (00 R8, 42 R172, 93 I22). Addresses, patterns and T_POLL_MIN_US are in range by type. Two
conditions are the model's: REPS fits the 3 bits of `rep`, and TIMEOUT_US is below the wrap of the time base (log 20). -/
def configWf (cfg : Config) : Bool :=
  decide (0 < cfg.fXtalHz) && decide (0 < cfg.bitrateBps) && decide (0 < cfg.fTargetHz)
    && decide (freqWord cfg < 2 ^ 24) && decide (1 ≤ bitrateWord cfg) && decide (bitrateWord cfg < 2 ^ 16)
    && decide (cfg.regFrfMsb.toNat + 2 ≤ 0x7F)
    && decide (0 < cfg.symbolUs) && decide (0 < cfg.gapUs) && decide (0 < cfg.timeoutUs)
    && decide (0 < cfg.tRstPulseUs) && decide (0 < cfg.tRstWaitUs)
    && decide (1 ≤ cfg.reps) && decide (cfg.reps ≤ 8) && decide (cfg.timeoutUs < 2 ^ 32)

/-- The least and the greatest real duration of a hold whose nominal duration is `us` (41 R143; log 10). -/
def holdRange (cfg : Config) (us : Nat) : Nat × Nat := (us - cfg.symbolTolUs, us + cfg.symbolTolUs)

end Sys2Proof.Machine
end

