-- ==== Sys2Proof/Machine/Ops.lean ====
section
/-! DEFINITION. The primitives of 00 R11 over the state, acceptance and completion of a host operation (43 R190, R195), and the reset input (70 R250). The block takes no exception (60 R220): completion with an error code and reset stand in its place. -/

namespace Sys2Proof.Machine

/-! ### The trace and the pins -/

/-- Append one event to the trace (00 R12). -/
def emit (e : Event) (s : State) : State := { s with trace := s.trace ++ [e] }

/-- Set the level of one output pin. -/
def setPin (p : Pin) (l : Bool) (s : State) : State :=
  match p with
  | .cs => { s with pinCs := l }
  | .reset => { s with pinReset := l }
  | .data => { s with pinData := l }

/-- PinWrite(p, l): `pin_p <- l; append Pin(p, l)` (41 R137). -/
def pinWrite (p : Pin) (l : Bool) (s : State) : State := emit (.pin p l) (setPin p l s)

/-- Hold(d): `append Hold(d)` (41 R138). -/
def hold (us : Nat) (s : State) : State := emit (.hold us) s

/-! ### Register transactions -/

/-- The answer the transceiver gives to the next read, of register `a`: the next of `busIn`, or else a free value
(10 R40, 42 R151; log 6). -/
def nextAnswer (a : RegAddr) (s : State) : Byte :=
  match s.busIn with
  | v :: _ => v
  | [] => Config.busAnswer s.busDraws a

/-- The transceiver has given its answer: the next read draws another (93 I10). -/
def takeAnswer (s : State) : State :=
  match s.busIn with
  | _ :: rest => { s with busIn := rest }
  | [] => { s with busDraws := s.busDraws + 1 }

/-- A transaction begins: CS goes from 1 to 0, with no event of its own (42 R153; log 13). -/
def csAssert (s : State) : State := { s with pinCs := false }

/-- The two bytes of a read are exchanged and CS returns to 1: one `BusR` event (42 R151, R153). The byte read is in
`rdata`. -/
def readTransfer (a : RegAddr) (s : State) : State :=
  { emit (.busR a (nextAnswer a s)) (takeAnswer s) with rdata := nextAnswer a s, pinCs := true }

/-- The two bytes of a write are exchanged and CS returns to 1: one `BusW` event; the byte clocked in is discarded
(20 R70). A write of REG_OPMODE is recorded in `radio_mode` (42 R152, R160). -/
def writeTransfer (cfg : Config) (a : RegAddr) (v : Byte) (s : State) : State :=
  { emit (.busW a v) s with
    radioMode := if a = cfg.regOpmode then some v else s.radioMode, pinCs := true }

/-- BusRead(a), the whole transaction (42 R151). -/
def busRead (a : RegAddr) (s : State) : State := readTransfer a (csAssert s)

/-- BusWrite(a, v), the whole transaction (42 R152). -/
def busWrite (cfg : Config) (a : RegAddr) (v : Byte) (s : State) : State := writeTransfer cfg a v (csAssert s)

/-! ### The time base -/

/-- The reading the time base would give next, before the law is applied: the next of `timeIn`, or else a free value
(60 R235; log 7). -/
def nextReading (s : State) : Time :=
  match s.timeIn with
  | t :: _ => t
  | [] => Config.timeReading s.timeDraws

/-- The time base has given its reading. -/
def takeReading (s : State) : State :=
  match s.timeIn with
  | _ :: rest => { s with timeIn := rest }
  | [] => { s with timeDraws := s.timeDraws + 1 }

/-- The least time after `t0` of a poll's `k`-th reading, `k × T_POLL_MIN_US` (60 R236), capped at the greatest difference
two 32-bit readings can have (log 8). -/
def pollFloor (cfg : Config) (k : Nat) : Nat := min (k * cfg.tPollMinUs) (2 ^ 32 - 1)

/-- The time-base law (60 R236): the `k`-th reading of a poll is at least `k × T_POLL_MIN_US` after `t0`, and otherwise
free. A reading that keeps the law is unchanged; one that breaks it is raised to the law's floor (log 7). DESIGN CHOICE
(log 32): the bound from `t0` is the whole law here, so a reading may fall behind the one before it, where 42 R168 and
93 I11 word the law as an advance in each iteration. -/
def lawfulReading (cfg : Config) (t0 : Time) (k : Nat) (t : Time) : Time :=
  if pollFloor cfg k ≤ elapsedUs t0 t then t else t0 + BitVec.ofNat 32 (pollFloor cfg k)

/-- The start of a poll: `pmode <- m; t0 <- Now()` (42 R161). -/
def pollBegin (m : Mode) (s : State) : State :=
  { emit (.time (nextReading s)) (takeReading s) with pmode := m, t0 := nextReading s, pollK := 0 }

/-- The reading `t <- Now()` of the poll's next time test (42 R161, 60 R236). -/
def testReading (cfg : Config) (s : State) : Time :=
  lawfulReading cfg s.t0 (s.pollK + 1) (nextReading s)

/-- The poll reads the time for a time test. -/
def pollNow (cfg : Config) (s : State) : State :=
  { emit (.time (testReading cfg s)) (takeReading s) with pollK := s.pollK + 1 }

/-- A mode-ready poll has timed out: `rstate <- FAULTED; err <- TIMEOUT_CODE(m)`, result false (42 R161). -/
def pollFail (m : Mode) (s : State) : State :=
  { s with rstate := .faulted, err := timeoutCode m, ok := false }

/-- A mode-ready poll has seen bit 7 = 1: result true (42 R161). -/
def pollOk (s : State) : State := { s with ok := true }

/-! ### The sequencer's pc -/

/-- The pc moves to `step`, at the position `sub` (10 R22). -/
def goto (st : Step) (sub : Sub) (s : State) : State := { s with step := some st, sub := sub }

/-- Acceptance of a request word: `busy <- 1; op <- …; append Req(w)`, then the operation runs from the step after its
acceptance step (43 R190). The `done` pulse of an operation before is over (10 R27; log 12). -/
def accept (o : Op) (w : Byte) (st : Step) (s : State) : State :=
  emit (.req w) { s with busy := true, op := o, step := some st, sub := .item 0, done := false }

/-- Complete(op, r): `result <- r; op <- NONE; step <- none; busy <- 0; append Done(op, r)`, with `done` = 1 for this event
only (43 R195, 10 R27; log 12). -/
def complete (r : Bool) (s : State) : State :=
  emit (.done s.op r)
    { s with result := r, op := .none, step := none, sub := .item 0, busy := false, done := true }

/-! ### Single fields the pseudocode writes -/

/-- `err <- e` (10 R28). -/
def setErr (e : ErrCode) (s : State) : State := { s with err := e }

/-- `rstate <- x` (10 R26). -/
def setRstate (x : Readiness) (s : State) : State := { s with rstate := x }

/-- `r <- b`, BEGIN's local (43 R192; log 15). -/
def setR (b : Bool) (s : State) : State := { s with r := b }

/-- `cmd <- c` (10 R36). -/
def setCmd (c : BitVec 4) (s : State) : State := { s with cmd := c }

/-- `fbuf <- f` (10 R36). -/
def setFbuf (f : Frame) (s : State) : State := { s with fbuf := f }

/-- The repetition counter (10 R37). -/
def setRep (k : Fin 8) (s : State) : State := { s with rep := k }

/-- The symbol counter (10 R37). -/
def setIdx (i : Fin 166) (s : State) : State := { s with idx := i }

/-! ### Instants and the reset input -/

/-- The same state with another list of what the host will do; `[]` is a silent host (log 3, log 30). -/
def withHost (h : List HostIn) (s : State) : State := { s with hostIn := h }

/-- An instant passes: what the host did at it is consumed, and the `done` pulse of the instant before is over (10 R27;
log 3, log 12). -/
def passInstant (s : State) : State := { s with hostIn := s.hostIn.tail, done := false }

/-- The reset input (70 R250, R251): every field of 10 R21 takes its reset value, the event `Reset` is appended, and
nothing else; an operation in progress is abandoned with no `Done`. The other agents' fields stay (70 R252, R253). -/
def applyReset (s : State) : State :=
  { State.reset with
    trace := s.trace ++ [.reset]
    irq := s.irq
    hostIn := s.hostIn
    issue := s.issue
    busIn := s.busIn
    busDraws := s.busDraws
    timeIn := s.timeIn
    timeDraws := s.timeDraws }

/-- Fixing a configuration: an ill-formed one is refused, never truncated (00 R8, 42 R172); a well-formed one gives the
block in its reset state. -/
def construct (cfg : Config) : Host.Outcome State Fault Refusal :=
  if configWf cfg then .next State.reset else .refused .illFormedConfig

/-- The time of the next event: the sum of the holds so far (00 R12). Of a hold that reset cuts short it counts the whole or
nothing (log 33). -/
def heldUs : List Event → Nat
  | [] => 0
  | .hold us :: es => us + heldUs es
  | _ :: es => heldUs es

end Sys2Proof.Machine
end

