-- ==== Sys2Proof/Machine/Bus.lean ====
section
/-! DEFINITION. The bus frames as instructions (42 R151, R152; 30 R90 to R95): BUS_READ, BUS_WRITE and the three mode writes. -/

namespace Sys2Proof.Machine

/-- BUS_READ a: one atomic transaction; the byte returned is in `rdata` (42 R150, R151). -/
def execBusRead (a : RegAddr) (s : State) : Host.Outcome State Fault Refusal :=
  .next (busRead a s)

/-- BUS_WRITE a, v: one atomic transaction (42 R150, R152). -/
def execBusWrite (a : RegAddr) (v : Byte) (s : State) : Host.Outcome State Fault Refusal :=
  .next (busWrite Config.hw a v s)

/-- The mode write of Sleep: BUS_WRITE(REG_OPMODE, 0x00), the bus write of EnterMode(SLEEP) without its poll
(42 R160; log 16). -/
def execModeSleep (s : State) : Host.Outcome State Fault Refusal :=
  .next (busWrite Config.hw Config.hw.regOpmode (modeVal .sleep) s)

/-- The mode write of Standby: BUS_WRITE(REG_OPMODE, 0x04) (log 16). -/
def execModeStandby (s : State) : Host.Outcome State Fault Refusal :=
  .next (busWrite Config.hw Config.hw.regOpmode (modeVal .standby) s)

/-- The mode write of Transmit: BUS_WRITE(REG_OPMODE, 0x0C) (log 16). -/
def execModeTransmit (s : State) : Host.Outcome State Fault Refusal :=
  .next (busWrite Config.hw Config.hw.regOpmode (modeVal .transmit) s)

end Sys2Proof.Machine
end

