-- ==== Sys2Proof/Machine/Catalog.lean ====
section
/-! DEFINITION. The command catalog and the frame builder (40 R110 to R124): CATALOG_LOOKUP and BUILD_FRAME. -/

namespace Sys2Proof.Machine

/-- CatalogLookup(c): the payload of a code up to 9, no payload for 0xA..0xF (40 R110, R111). -/
def catalogLookup (cfg : Config) (c : BitVec 4) : Option Payload :=
  if h : c.toNat < 10 then some cfg.payloads[c.toNat] else none

/-- PREAMBLE ∥ SYNC_PHRASE ∥ payload (40 R120, 30 R88). -/
def frameOf (cfg : Config) (p : Payload) : Frame := cfg.preamble ++ cfg.syncPhrase ++ p

/-- BuildFrame(p): no frame from no payload, else the frame (40 R120, R121). -/
def buildFrame (cfg : Config) (p : Option Payload) : Option Frame := p.map (frameOf cfg)

/-- CATALOG_LOOKUP(c). Pure: it writes no state of the spec's and appends no event (40 R110, R112); what it returns stands in
`lookup` (log 15). -/
def lookupInto (cfg : Config) (c : BitVec 4) (s : State) : State := { s with lookup := catalogLookup cfg c }

/-- BUILD_FRAME(p). Writes no state of the spec's and appends no event (40 R120); what it returns stands in `built`
(log 15). -/
def buildInto (cfg : Config) (p : Option Payload) (s : State) : State := { s with built := buildFrame cfg p }

/-- CATALOG_LOOKUP (40 R110). -/
def execCatalogLookup (c : BitVec 4) (s : State) : Host.Outcome State Fault Refusal :=
  .next (lookupInto Config.hw c s)

/-- BUILD_FRAME (40 R120). -/
def execBuildFrame (p : Option Payload) (s : State) : Host.Outcome State Fault Refusal :=
  .next (buildInto Config.hw p s)

end Sys2Proof.Machine
end

