-- ==== Sys2Proof/Machine/Radio.lean ====
section
/-! DEFINITION. The radio mode and configuration operations as whole operations (42): ENTER_MODE, WAIT_MODE_READY, RESET_PULSE, CHECK_ID, CONFIGURE_RADIO. The sequencer runs the same events one at a time (Machine/Sequencer.lean). -/

namespace Sys2Proof.Machine

/-- The poll loop of 42 R161. The first argument bounds the iterations; TIMEOUT_US of them always suffice, because the
`k`-th time test is at least `k` µs after `t0` (60 R236, 42 R168), so the bound is never what ends the poll. -/
def pollLoop (cfg : Config) (m : Mode) : Nat → State → State
  | 0, s => pollFail m s
  | n + 1, s =>
    let s := busRead cfg.regStatus s
    if modeReady s.rdata then pollOk s
    else if timedOut cfg s.t0 (testReading cfg s) then pollFail m (pollNow cfg s)
    else pollLoop cfg m n (pollNow cfg s)

/-- WaitModeReady(m) (42 R161); its result is in `ok`. -/
def waitModeReady (cfg : Config) (m : Mode) (s : State) : State :=
  pollLoop cfg m cfg.timeoutUs (pollBegin m s)

/-- EnterMode(m): write REG_OPMODE, record it, poll (42 R160); its result is in `ok`. -/
def enterMode (cfg : Config) (m : Mode) (s : State) : State :=
  waitModeReady cfg m (busWrite cfg cfg.regOpmode (modeVal m) s)

/-- ResetPulse() (42 R175). -/
def resetPulse (cfg : Config) (s : State) : State :=
  hold cfg.tRstWaitUs (pinWrite .reset false (hold cfg.tRstPulseUs (pinWrite .reset true s)))

/-- The byte read from REG_VERSION is recorded and tested (42 R176). -/
def recordId (s : State) : State := { s with idSeen := s.rdata, ok := idMatches s.rdata }

/-- CheckId() (42 R176); its result is in `ok`. -/
def checkId (cfg : Config) (s : State) : State := recordId (busRead cfg.regVersion s)

/-- A list of register writes, in order, each a transaction of its own (20 R67, R72). -/
def busWrites (cfg : Config) (ws : List (RegAddr × Byte)) (s : State) : State :=
  ws.foldl (fun s w => busWrite cfg w.1 w.2 s) s

/-- ConfigureRadio(): steps 1 to 5, then Sleep (42 R177); its result is in `ok`. -/
def configureRadio (cfg : Config) (s : State) : State :=
  enterMode cfg .sleep (busWrites cfg (configWrites cfg) s)

/-- ENTER_MODE (42 R160). -/
def execEnterMode (m : Mode) (s : State) : Host.Outcome State Fault Refusal :=
  .next (enterMode Config.hw m s)

/-- WAIT_MODE_READY (42 R161). -/
def execWaitModeReady (m : Mode) (s : State) : Host.Outcome State Fault Refusal :=
  .next (waitModeReady Config.hw m s)

/-- RESET_PULSE (42 R175). -/
def execResetPulse (s : State) : Host.Outcome State Fault Refusal :=
  .next (resetPulse Config.hw s)

/-- CHECK_ID (42 R176). -/
def execCheckId (s : State) : Host.Outcome State Fault Refusal :=
  .next (checkId Config.hw s)

/-- CONFIGURE_RADIO (42 R177). -/
def execConfigureRadio (s : State) : Host.Outcome State Fault Refusal :=
  .next (configureRadio Config.hw s)

end Sys2Proof.Machine
end

