-- ==== Sys2Proof/Machine/Transmitter.lean ====
section
/-! DEFINITION. The symbol transmitter (41): PIN_WRITE, HOLD and TRANSMIT_FRAME as one whole operation. The sequencer runs the same events one at a time (Machine/Sequencer.lean). -/

namespace Sys2Proof.Machine

/-- The symbol of a frame at a position (00 R10). -/
def symbolAt (f : Frame) (i : Fin 166) : Bool := f[i]

/-- One symbol: DATA is driven to its level and held for SYMBOL_US (41 R130, R132). -/
def sendSymbol (cfg : Config) (f : Frame) (s : State) (i : Fin 166) : State :=
  hold cfg.symbolUs (pinWrite .data (symbolAt f i) (setIdx i s))

/-- One repetition: the symbols in position order (41 R131), then DATA low and the gap (41 R134). -/
def sendRepetition (cfg : Config) (f : Frame) (s : State) (k : Nat) : State :=
  hold cfg.gapUs (pinWrite .data false
    ((List.finRange 166).foldl (sendSymbol cfg f) (setRep (Fin.ofNat 8 k) s)))

/-- TransmitFrame(f): REPS repetitions of the same frame (41 R130, R135). -/
def transmitFrame (cfg : Config) (f : Frame) (s : State) : State :=
  (List.range cfg.reps).foldl (sendRepetition cfg f) (setIdx 0 (setRep 0 s))

/-- PIN_WRITE (41 R137). -/
def execPinWrite (p : Pin) (l : Bool) (s : State) : Host.Outcome State Fault Refusal :=
  .next (pinWrite p l s)

/-- HOLD (41 R138). -/
def execHold (us : Nat) (s : State) : Host.Outcome State Fault Refusal :=
  .next (hold us s)

/-- TRANSMIT_FRAME of the frame in `fbuf` (41 R130). -/
def execTransmitFrame (s : State) : Host.Outcome State Fault Refusal :=
  .next (transmitFrame Config.hw s.fbuf s)

end Sys2Proof.Machine
end

