-- ==== Sys2Proof/Machine/Sequencer.lean ====
section
/-! DEFINITION. The sequencer: what the engine does in one instant of an operation (10 R22; 43 R192 to R194), at most one event each, and the run of an operation to its end. Between any two instants the host may present a word, which is dropped (43 R191), or assert reset (70 R251). -/

namespace Sys2Proof.Machine

/-! ### The parts of a step -/

/-- The index of an action in a straight-line step. -/
def subIndex : Sub → Nat
  | .item k => k
  | _ => 0

/-- A bus transaction takes two instants: CS is asserted in the first, and in the second the bytes are exchanged, which is
`transfer` (42 R153; log 13). -/
def busInstant (transfer : State → State) (s : State) : State :=
  if s.pinCs then csAssert s else transfer s

/-- The writes `ws` of one step, one transaction after another from the step's current index; after the last, `next`. -/
def writesInstant (cfg : Config) (ws : List (RegAddr × Byte)) (here : Step) (next : State → State) (s : State) : State :=
  match ws[subIndex s.sub]? with
  | some (a, v) =>
    busInstant (fun s =>
      if subIndex s.sub + 1 < ws.length then goto here (.item (subIndex s.sub + 1)) (writeTransfer cfg a v s)
      else next (writeTransfer cfg a v s)) s
  | none => next s

/-- EnterMode(m) at the step `here` (42 R160, R161): the write, the reading of `t0`, then reads and time tests in turn. It
goes on with `yes` when the poll succeeds and with `no` when it times out. -/
def enterModeInstant (cfg : Config) (m : Mode) (here : Step) (yes no : State → State) (s : State) : State :=
  match s.sub with
  | .pollStart => goto here .pollRead (pollBegin m s)
  | .pollRead =>
    busInstant (fun s =>
      let s := readTransfer cfg.regStatus s
      if modeReady s.rdata then yes (pollOk s) else goto here .pollTest s) s
  | .pollTest =>
    if timedOut cfg s.t0 (testReading cfg s) then no (pollFail m (pollNow cfg s))
    else goto here .pollRead (pollNow cfg s)
  | _ => busInstant (fun s => goto here .pollStart (writeTransfer cfg cfg.regOpmode (modeVal m) s)) s

/-- BEGIN fails: `goto B14 with r = 0` (43 R192). -/
def beginFails (s : State) : State := goto .b14 (.item 0) (setR false s)

/-! ### BEGIN (43 R192) -/

/-- B2: the reset pulse up to the release of RESET (42 R175). -/
def stepB2 (cfg : Config) (s : State) : State :=
  match subIndex s.sub with
  | 0 => goto .b2 (.item 1) (pinWrite .reset true s)
  | 1 => goto .b2 (.item 2) (hold cfg.tRstPulseUs s)
  | _ => goto .b3 (.item 0) (pinWrite .reset false s)

/-- B3: the wait after the pulse (70 R267). -/
def stepB3 (cfg : Config) (s : State) : State := goto .b4 (.item 0) (hold cfg.tRstWaitUs s)

/-- B4: the identification read (42 R176). -/
def stepB4 (cfg : Config) (s : State) : State :=
  busInstant (fun s => goto .b5 (.item 0) (recordId (readTransfer cfg.regVersion s))) s

/-- B5: an identification byte other than 0x24 ends BEGIN, with `rstate` unchanged (10 R26, 90 C8). -/
def stepB5 (s : State) : State :=
  if idMatches s.idSeen then goto .b6 .modeWrite s else beginFails (setErr .idMismatch s)

/-- B6: Standby, when BEGIN_ENTERS_STANDBY (42 R162, R178). -/
def stepB6 (cfg : Config) (s : State) : State :=
  if cfg.beginEntersStandby then enterModeInstant cfg .standby .b6 (goto .b7 (.item 0)) beginFails s
  else goto .b7 (.item 0) s

/-- B7: modulation (42 R177 step 1). -/
def stepB7 (cfg : Config) (s : State) : State :=
  writesInstant cfg [(cfg.regDatamodul, cfg.valDatamodul)] .b7 (goto .b8 (.item 0)) s

/-- B8: frequency word (42 R177 step 2). -/
def stepB8 (cfg : Config) (s : State) : State := writesInstant cfg (freqWrites cfg) .b8 (goto .b9 (.item 0)) s

/-- B9: bit-rate word (42 R177 step 3). -/
def stepB9 (cfg : Config) (s : State) : State := writesInstant cfg (bitrateWrites cfg) .b9 (goto .b10 (.item 0)) s

/-- B10: power amplifier and over-current protection (42 R177 step 4). -/
def stepB10 (cfg : Config) (s : State) : State := writesInstant cfg cfg.paWrites .b10 (goto .b11 (.item 0)) s

/-- B11: auxiliary clock output off (42 R177 step 5). -/
def stepB11 (cfg : Config) (s : State) : State :=
  writesInstant cfg [(cfg.regClkout, cfg.valClkoutOff)] .b11 (goto .b12 .modeWrite) s

/-- B12: back to Sleep (42 R177 step 6). -/
def stepB12 (cfg : Config) (s : State) : State :=
  enterModeInstant cfg .sleep .b12 (goto .b13 (.item 0)) beginFails s

/-- B13: success (10 R26 (b)). -/
def stepB13 (s : State) : State := goto .b14 (.item 0) (setR true (setErr .none (setRstate .ready s)))

/-- B14: Complete(BEGIN, r). -/
def stepB14 (s : State) : State := complete s.r s

/-! ### SEND (43 R193) -/

/-- S2: a SEND on a block that is not READY is a no-op (43 R198). -/
def stepS2 (s : State) : State :=
  if readyOut s then goto .s3 (.item 0) s else goto .s9 (.item 0) (setErr .notReady s)

/-- S3: the catalog lookup; a code without a payload is a no-op (30 R86, 43 R198). -/
def stepS3 (cfg : Config) (s : State) : State :=
  let s := lookupInto cfg s.cmd s
  if s.lookup.isNone then goto .s9 (.item 0) (setErr .unknownCmd s) else goto .s4 (.item 0) s

/-- S4: the frame is built into `fbuf` (10 R36, 40 R124). BuildFrame of no payload is unreachable here (40 R121); such a
state would complete without sending (log 19). -/
def stepS4 (cfg : Config) (s : State) : State :=
  let s := buildInto cfg s.lookup s
  match s.built with
  | some f => goto .s5 .modeWrite (setFbuf f s)
  | none => goto .s9 (.item 0) s

/-- S5: Transmit; on a timeout SEND ends without transmitting (42 R163, 92 D17). The symbol loop starts with `rep` and
`idx` at 0 (10 R37). -/
def stepS5 (cfg : Config) (s : State) : State :=
  enterModeInstant cfg .transmit .s5 (fun s => goto .s6 .symPin (setIdx 0 (setRep 0 s)))
    (goto .s9 (.item 0)) s

/-- After the hold of symbol `idx`: the next symbol, or the low write after the last one (41 R130). -/
def nextSymbol (s : State) : State :=
  if h : s.idx.val + 1 < 166 then goto .s6 .symPin (setIdx ⟨s.idx.val + 1, h⟩ s) else goto .s6 .gapPin s

/-- After a gap: the next repetition, or Sleep after the last one (41 R130, R134). -/
def nextRepetition (cfg : Config) (s : State) : State :=
  if s.rep.val + 1 < cfg.reps then goto .s6 .symPin (setIdx 0 (setRep (Fin.ofNat 8 (s.rep.val + 1)) s))
  else goto .s7 .modeWrite s

/-- S6: one event of the symbol loop (41 R130). -/
def stepS6 (cfg : Config) (s : State) : State :=
  match s.sub with
  | .symHold => nextSymbol (hold cfg.symbolUs s)
  | .gapPin => goto .s6 .gapHold (pinWrite .data false s)
  | .gapHold => nextRepetition cfg (hold cfg.gapUs s)
  | _ => goto .s6 .symHold (pinWrite .data (symbolAt s.fbuf s.idx) s)

/-- S7: Sleep, best-effort: its failure ends nothing early (42 R164, 92 D18). -/
def stepS7 (cfg : Config) (s : State) : State :=
  enterModeInstant cfg .sleep .s7 (goto .s8 (.item 0)) (goto .s8 (.item 0)) s

/-- S8: `if ok then err <- NONE`. -/
def stepS8 (s : State) : State := goto .s9 (.item 0) (if s.ok then setErr .none s else s)

/-- S9: Complete(SEND, 0). -/
def stepS9 (s : State) : State := complete false s

/-! ### STATUS (43 R194) -/

/-- T1: Complete(STATUS, ready). -/
def stepT1 (s : State) : State := complete (readyOut s) s

/-! ### The instant -/

/-- What the engine does in one instant, by its pc. B1 and S1 are the acceptance itself (43 R190), so a pc there only moves
on; without a step there is nothing to do. -/
def sequence (cfg : Config) (s : State) : State :=
  match s.step with
  | none => s
  | some .b1 => goto .b2 (.item 0) s
  | some .b2 => stepB2 cfg s
  | some .b3 => stepB3 cfg s
  | some .b4 => stepB4 cfg s
  | some .b5 => stepB5 s
  | some .b6 => stepB6 cfg s
  | some .b7 => stepB7 cfg s
  | some .b8 => stepB8 cfg s
  | some .b9 => stepB9 cfg s
  | some .b10 => stepB10 cfg s
  | some .b11 => stepB11 cfg s
  | some .b12 => stepB12 cfg s
  | some .b13 => stepB13 s
  | some .b14 => stepB14 s
  | some .s1 => goto .s2 (.item 0) s
  | some .s2 => stepS2 s
  | some .s3 => stepS3 cfg s
  | some .s4 => stepS4 cfg s
  | some .s5 => stepS5 cfg s
  | some .s6 => stepS6 cfg s
  | some .s7 => stepS7 cfg s
  | some .s8 => stepS8 s
  | some .s9 => stepS9 s
  | some .t1 => stepT1 s

/-- One instant of a busy engine. Reset comes first (60 R228) and abandons the operation (70 R251); a word presented now is
dropped (43 R191); else the sequencer does its next action. DESIGN CHOICE (log 33): reset falls between instants, so a hold
it cuts short stands in the trace whole, with its nominal duration, or not at all. -/
def tick (cfg : Config) (s : State) : State :=
  match s.hostIn with
  | .reset :: _ => applyReset (passInstant s)
  | _ => sequence cfg (passInstant s)

/-- Instants until the operation in progress has ended, at most as many as the first argument. -/
def runOp (cfg : Config) : Nat → State → State
  | 0, s => s
  | n + 1, s => if s.busy then runOp cfg n (tick cfg s) else s

/-- More instants than any operation takes: two polls of at most TIMEOUT_US iterations of three instants each (42 R168), the
symbol loop (41 R140), the configuration writes, and the single steps. -/
def opInstants (cfg : Config) : Nat :=
  6 * cfg.timeoutUs + 334 * cfg.reps + 2 * cfg.paWrites.length + 64

/-- The engine carries the operation in progress to its end. -/
def finish (cfg : Config) (s : State) : State := runOp cfg (opInstants cfg) s

end Sys2Proof.Machine
end

