-- ==== Sys2Proof/Machine/Requests.lean ====
section
/-! DEFINITION. The request words (43): NOP and the reserved words, BEGIN, the sixteen SEND codes, STATUS. Accepting one starts the operation, and its meaning is the whole operation, run to its end by the sequencer. -/

namespace Sys2Proof.Machine

/-- A word that is NOP or reserved is ignored at any time: no state change and no event (30 R82, 43 R196). -/
def ignoreWord (s : State) : State := s

/-- A request word presented to the block: dropped while busy (43 R191), else accepted as `accepted` says and carried out to
its end (43 R190, R195). -/
def request (cfg : Config) (accepted : State → State) (s : State) : State :=
  if s.busy then s else finish cfg (accepted s)

/-- Acceptance of BEGIN (43 R190, R192 B1). -/
def acceptBegin (s : State) : State := accept .begin (requestWord 1 0 0) .b2 s

/-- Acceptance of SEND `c`: `cmd <- c` (30 R84, 43 R193 S1). -/
def acceptSend (c : BitVec 4) (s : State) : State := setCmd c (accept .send (sendWord c) .s2 s)

/-- Acceptance of STATUS (43 R190, R194). -/
def acceptStatus (s : State) : State := accept .status (requestWord 3 0 0) .t1 s

/-- BEGIN, the whole operation. -/
def begin (cfg : Config) (s : State) : State := request cfg acceptBegin s

/-- SEND `c`, the whole operation. -/
def send (cfg : Config) (c : BitVec 4) (s : State) : State := request cfg (acceptSend c) s

/-- STATUS, the whole operation. -/
def status (cfg : Config) (s : State) : State := request cfg acceptStatus s

/-- NOP (43 R196). -/
def execNop (s : State) : Host.Outcome State Fault Refusal := .next (ignoreWord s)

/-- BEGIN (43 R192). -/
def execBegin (s : State) : Host.Outcome State Fault Refusal := .next (begin Config.hw s)

/-- SEND LIGHT_TOGGLE (43 R193). -/
def execSendLightToggle (s : State) : Host.Outcome State Fault Refusal := .next (send Config.hw 0 s)

/-- SEND FAN_TOGGLE (43 R193). -/
def execSendFanToggle (s : State) : Host.Outcome State Fault Refusal := .next (send Config.hw 1 s)

/-- SEND LIGHT_DOWN (43 R193). -/
def execSendLightDown (s : State) : Host.Outcome State Fault Refusal := .next (send Config.hw 2 s)

/-- SEND LIGHT_UP (43 R193). -/
def execSendLightUp (s : State) : Host.Outcome State Fault Refusal := .next (send Config.hw 3 s)

/-- SEND FAN_1 (43 R193). -/
def execSendFan1 (s : State) : Host.Outcome State Fault Refusal := .next (send Config.hw 4 s)

/-- SEND FAN_2 (43 R193). -/
def execSendFan2 (s : State) : Host.Outcome State Fault Refusal := .next (send Config.hw 5 s)

/-- SEND FAN_3 (43 R193). -/
def execSendFan3 (s : State) : Host.Outcome State Fault Refusal := .next (send Config.hw 6 s)

/-- SEND FAN_4 (43 R193). -/
def execSendFan4 (s : State) : Host.Outcome State Fault Refusal := .next (send Config.hw 7 s)

/-- SEND FAN_5 (43 R193). -/
def execSendFan5 (s : State) : Host.Outcome State Fault Refusal := .next (send Config.hw 8 s)

/-- SEND FAN_6 (43 R193). -/
def execSendFan6 (s : State) : Host.Outcome State Fault Refusal := .next (send Config.hw 9 s)

/-- SEND of the undefined code 10 (30 R86, 43 R198). -/
def execSendUndefined10 (s : State) : Host.Outcome State Fault Refusal := .next (send Config.hw 10 s)

/-- SEND of the undefined code 11 (30 R86, 43 R198). -/
def execSendUndefined11 (s : State) : Host.Outcome State Fault Refusal := .next (send Config.hw 11 s)

/-- SEND of the undefined code 12 (30 R86, 43 R198). -/
def execSendUndefined12 (s : State) : Host.Outcome State Fault Refusal := .next (send Config.hw 12 s)

/-- SEND of the undefined code 13 (30 R86, 43 R198). -/
def execSendUndefined13 (s : State) : Host.Outcome State Fault Refusal := .next (send Config.hw 13 s)

/-- SEND of the undefined code 14 (30 R86, 43 R198). -/
def execSendUndefined14 (s : State) : Host.Outcome State Fault Refusal := .next (send Config.hw 14 s)

/-- SEND of the undefined code 15 (30 R86, 43 R198). -/
def execSendUndefined15 (s : State) : Host.Outcome State Fault Refusal := .next (send Config.hw 15 s)

/-- STATUS (43 R194). -/
def execStatus (s : State) : Host.Outcome State Fault Refusal := .next (status Config.hw s)

/-- A reserved word, rsv = 01 (30 R82, 43 R196). -/
def execReservedRsv01 (_op : BitVec 2) (_arg : BitVec 4) (s : State) : Host.Outcome State Fault Refusal :=
  .next (ignoreWord s)

/-- A reserved word, rsv = 10 (30 R82, 43 R196). -/
def execReservedRsv10 (_op : BitVec 2) (_arg : BitVec 4) (s : State) : Host.Outcome State Fault Refusal :=
  .next (ignoreWord s)

/-- A reserved word, rsv = 11 (30 R82, 43 R196). -/
def execReservedRsv11 (_op : BitVec 2) (_arg : BitVec 4) (s : State) : Host.Outcome State Fault Refusal :=
  .next (ignoreWord s)

/-- A reserved word, op = 00 and arg ≠ 0 (30 R82, 43 R196). -/
def execReservedOp00Arg (_arg : BitVec 4) (s : State) : Host.Outcome State Fault Refusal :=
  .next (ignoreWord s)

/-- A reserved word, op = 01 and arg ≠ 0 (30 R82, 43 R196). -/
def execReservedOp01Arg (_arg : BitVec 4) (s : State) : Host.Outcome State Fault Refusal :=
  .next (ignoreWord s)

/-- A reserved word, op = 11 and arg ≠ 0 (30 R82, 43 R196). -/
def execReservedOp11Arg (_arg : BitVec 4) (s : State) : Host.Outcome State Fault Refusal :=
  .next (ignoreWord s)

end Sys2Proof.Machine
end

