-- ==== Sys2Proof/Machine/Dispatch.lean ====
section
/-! DEFINITION. The meaning of an instruction: one arm for each constructor of `Instr`. -/

namespace Sys2Proof.Machine

def exec (i : Instr) (s : State) : Host.Outcome State Fault Refusal :=
  match i with
  | .nop => Sys2Proof.Machine.execNop s
  | .begin => Sys2Proof.Machine.execBegin s
  | .sendLightToggle => Sys2Proof.Machine.execSendLightToggle s
  | .sendFanToggle => Sys2Proof.Machine.execSendFanToggle s
  | .sendLightDown => Sys2Proof.Machine.execSendLightDown s
  | .sendLightUp => Sys2Proof.Machine.execSendLightUp s
  | .sendFan1 => Sys2Proof.Machine.execSendFan1 s
  | .sendFan2 => Sys2Proof.Machine.execSendFan2 s
  | .sendFan3 => Sys2Proof.Machine.execSendFan3 s
  | .sendFan4 => Sys2Proof.Machine.execSendFan4 s
  | .sendFan5 => Sys2Proof.Machine.execSendFan5 s
  | .sendFan6 => Sys2Proof.Machine.execSendFan6 s
  | .sendUndefined10 => Sys2Proof.Machine.execSendUndefined10 s
  | .sendUndefined11 => Sys2Proof.Machine.execSendUndefined11 s
  | .sendUndefined12 => Sys2Proof.Machine.execSendUndefined12 s
  | .sendUndefined13 => Sys2Proof.Machine.execSendUndefined13 s
  | .sendUndefined14 => Sys2Proof.Machine.execSendUndefined14 s
  | .sendUndefined15 => Sys2Proof.Machine.execSendUndefined15 s
  | .status => Sys2Proof.Machine.execStatus s
  | .reservedRsv01 op arg => Sys2Proof.Machine.execReservedRsv01 op arg s
  | .reservedRsv10 op arg => Sys2Proof.Machine.execReservedRsv10 op arg s
  | .reservedRsv11 op arg => Sys2Proof.Machine.execReservedRsv11 op arg s
  | .reservedOp00Arg arg => Sys2Proof.Machine.execReservedOp00Arg arg s
  | .reservedOp01Arg arg => Sys2Proof.Machine.execReservedOp01Arg arg s
  | .reservedOp11Arg arg => Sys2Proof.Machine.execReservedOp11Arg arg s
  | .busRead addr => Sys2Proof.Machine.execBusRead addr s
  | .busWrite addr value => Sys2Proof.Machine.execBusWrite addr value s
  | .modeSleep => Sys2Proof.Machine.execModeSleep s
  | .modeStandby => Sys2Proof.Machine.execModeStandby s
  | .modeTransmit => Sys2Proof.Machine.execModeTransmit s
  | .catalogLookup code => Sys2Proof.Machine.execCatalogLookup code s
  | .buildFrame payload => Sys2Proof.Machine.execBuildFrame payload s
  | .transmitFrame => Sys2Proof.Machine.execTransmitFrame s
  | .pinWrite pin level => Sys2Proof.Machine.execPinWrite pin level s
  | .hold us => Sys2Proof.Machine.execHold us s
  | .enterMode mode => Sys2Proof.Machine.execEnterMode mode s
  | .waitModeReady mode => Sys2Proof.Machine.execWaitModeReady mode s
  | .resetPulse => Sys2Proof.Machine.execResetPulse s
  | .checkId => Sys2Proof.Machine.execCheckId s
  | .configureRadio => Sys2Proof.Machine.execConfigureRadio s

end Sys2Proof.Machine
end

