-- ==== Sys2Proof/Machine/Fetch.lean ====
section
/-! DEFINITION. What the engine turns to next: a bus frame it is made to issue, the operation in progress, or what the host does at this instant. -/

namespace Sys2Proof.Machine

/-- What `step` finds to do. -/
inductive Fetched where
  /-- a bus frame at the register interface (log 5) -/
  | frame (f : BitVec 16)
  /-- an operation is in progress -/
  | operation
  /-- the engine is idle and nothing is presented -/
  | idle
  /-- the engine is idle and this request word is presented -/
  | word (w : Byte)
  /-- the engine is idle and reset is asserted -/
  | reset
  deriving DecidableEq, Repr

/-- What `step` finds to do in a state. -/
def fetch (s : State) : Fetched :=
  match s.issue with
  | some f => .frame f
  | none =>
    if s.busy then .operation
    else match s.hostIn with
      | [] => .idle
      | .idle :: _ => .idle
      | .word w :: _ => .word w
      | .reset :: _ => .reset

/-- The instruction of a bus frame, byte 0 in bits 15..8 (30 R90, R91). -/
def frameInstr (f : BitVec 16) : Instr := decodeFrame (f.extractLsb' 8 8) (f.extractLsb' 0 8)

/-- The frame at the register interface is taken from its place. -/
def takeFrame (s : State) : State := { s with issue := none }

/-- A request word placed as the host's next input (log 4). -/
def presentWord (w : Byte) (s : State) : State := { s with hostIn := .word w :: s.hostIn, issue := none }

/-- A bus frame placed at the register interface (log 5). -/
def presentFrame (f : BitVec 16) (s : State) : State := { s with issue := some f }

end Sys2Proof.Machine
end

