-- ==== Sys2Proof/Machine/Step.lean ====
section
/-! DEFINITION. One step of the machine, and where its next instruction is placed. -/

namespace Sys2Proof.Machine

/-- One step: a host operation is carried out whole, to its `Done` event or to the reset that aborts it (log 2).
* A word presented to an idle engine is decoded and its instruction runs (30 R82, R83).
* Reset on an idle engine resets it (70 R250).
* With nothing presented an instant passes (70 R254).
* A state in the middle of an operation carries that operation to its end (43 R190, R191).
* A bus frame at the register interface runs first (log 5). -/
def step (s : State) : Host.Outcome State Fault Refusal :=
  match fetch s with
  | .frame f => exec (frameInstr f) (takeFrame s)
  | .operation => if s.step.isSome then .next (finish Config.hw s) else .fault .lostStep
  | .idle => .next (passInstant s)
  | .word w => exec (decodeRequest w) (passInstant s)
  | .reset => .next (applyReset (passInstant s))

/-- `s` with an instruction of the opcode table placed where `step` fetches its next one: a request word as the host's next
input, a bus frame at the register interface (log 4, log 5). The host presents words only to an idle engine's effect, so the
very next step runs it when `s` is not busy, as after reset. -/
def State.withFetchWord (s : State) (nbits w : Nat) : State :=
  if nbits ≤ 8 then presentWord (BitVec.ofNat 8 w) s else presentFrame (BitVec.ofNat 16 w) s

end Sys2Proof.Machine
end

