-- ==== Sys2Proof/Machine/Driver.lean ====
section
/-! DEFINITION. BEGIN, SEND and STATUS as the straight-line programs of 43 R192 to R194 over the whole internal operations, on a host that presents nothing while they run. Claims compare the sequencer with these; `step` does not use them. -/

namespace Sys2Proof.Machine

/-- BEGIN from its first step after acceptance (43 R192 B2 to B14). -/
def beginProgram (cfg : Config) (s : State) : State :=
  let s := checkId cfg (resetPulse cfg s)
  if !idMatches s.idSeen then complete false (setR false (setErr .idMismatch s))
  else
    let s := if cfg.beginEntersStandby then enterMode cfg .standby s else s
    if !s.ok then complete false (setR false s)
    else
      let s := configureRadio cfg s
      if !s.ok then complete false (setR false s)
      else complete true (setR true (setErr .none (setRstate .ready s)))

/-- SEND from its first step after acceptance (43 R193 S2 to S9). -/
def sendProgram (cfg : Config) (s : State) : State :=
  if !readyOut s then complete false (setErr .notReady s)
  else
    let s := lookupInto cfg s.cmd s
    match s.lookup with
    | none => complete false (setErr .unknownCmd s)
    | some p =>
      let s := enterMode cfg .transmit (setFbuf (frameOf cfg p) (buildInto cfg (some p) s))
      if !s.ok then complete false s
      else
        let s := enterMode cfg .sleep (transmitFrame cfg s.fbuf s)
        complete false (if s.ok then setErr .none s else s)

/-- STATUS from its first step after acceptance (43 R194 T1). -/
def statusProgram (s : State) : State := complete (readyOut s) s

end Sys2Proof.Machine
end

