-- ==== Sys2Proof/Safety.lean ====
section
/-! DEFINITION. What a safe run is, in the terms the claims use: the invariant of the engine's state, the events the block may produce, and the write-then-poll discipline of a trace. -/

namespace Sys2Proof.Safety

open Sys2Proof.Machine

/-! ### The pc -/

/-- The labels of each operation (10 R22). -/
def labelOf : Op → Step → Bool
  | .begin, .b1 | .begin, .b2 | .begin, .b3 | .begin, .b4 | .begin, .b5 | .begin, .b6 | .begin, .b7 => true
  | .begin, .b8 | .begin, .b9 | .begin, .b10 | .begin, .b11 | .begin, .b12 | .begin, .b13 | .begin, .b14 => true
  | .send, .s1 | .send, .s2 | .send, .s3 | .send, .s4 | .send, .s5 | .send, .s6 | .send, .s7 => true
  | .send, .s8 | .send, .s9 => true
  | .status, .t1 => true
  | _, _ => false

/-- The pc is legal: busy exactly when an operation is in progress, and then at a label of it (10 R22, R23). -/
def pcLegal (s : State) : Bool :=
  match s.op, s.step with
  | .none, none => !s.busy
  | .none, some _ => false
  | _, none => false
  | o, some st => s.busy && labelOf o st

/-- The mode an entering step waits for, at the steps that enter a mode (43 R192, R193). -/
def entering (cfg : Config) : Option Step → Option Mode
  | some .b6 => if cfg.beginEntersStandby then some .standby else none
  | some .b12 => some .sleep
  | some .s5 => some .transmit
  | some .s7 => some .sleep
  | _ => none

/-- The writes of a configuration step (42 R177). -/
def writesAt (cfg : Config) : Option Step → List (RegAddr × Byte)
  | some .b7 => [(cfg.regDatamodul, cfg.valDatamodul)]
  | some .b8 => freqWrites cfg
  | some .b9 => bitrateWrites cfg
  | some .b10 => cfg.paWrites
  | some .b11 => [(cfg.regClkout, cfg.valClkoutOff)]
  | _ => []

/-- A bus transaction is what the pc does next: the only positions at which CS may be asserted (10 R32). -/
def atBus (cfg : Config) (s : State) : Bool :=
  s.step == some .b4
    || (entering cfg s.step).isSome && s.sub != .pollStart && s.sub != .pollTest
    || decide (subIndex s.sub < (writesAt cfg s.step).length)

/-! ### The events -/

/-- The register writes the block makes: the configuration writes and the three mode values to REG_OPMODE (10 R41). -/
def tableWrites (cfg : Config) : List (RegAddr × Byte) :=
  configWrites cfg ++ [(cfg.regOpmode, modeVal .sleep), (cfg.regOpmode, modeVal .standby),
    (cfg.regOpmode, modeVal .transmit)]

/-- The events the block may produce: writes of the table, reads of REG_VERSION and REG_STATUS (10 R41), holds of the four
constants (41 R138), no pin write of CS (41 R137). -/
def eventAllowed (cfg : Config) : Event → Bool
  | .busW a v => decide ((a, v) ∈ tableWrites cfg)
  | .busR a _ => a == cfg.regVersion || a == cfg.regStatus
  | .hold us => us == cfg.symbolUs || us == cfg.gapUs || us == cfg.tRstPulseUs || us == cfg.tRstWaitUs
  | .pin p _ => p != .cs
  | .time _ | .done _ _ | .req _ | .reset => true

/-- No configuration write goes to REG_OPMODE: that register is written by mode entries alone (30 R95, 42 R160). The
spec's addresses are parameters, and this hardware's defaults have it. -/
def ownOpmode (cfg : Config) : Bool := (configWrites cfg).all (fun w => w.1 != cfg.regOpmode)

/-! ### The invariant -/

/-- What holds of the engine at every instant, for a block whose register interface runs no frame but the sequencer's. -/
structure Inv (cfg : Config) (s : State) : Prop where
  /-- 10 R22, R23 -/
  pc : pcLegal s = true
  /-- 10 R27: `done` is a pulse of an instant at which no operation is in progress -/
  doneIdle : s.done = true → s.busy = false
  /-- 10 R32: CS is asserted only inside a bus transaction -/
  cs : s.pinCs = false → atBus cfg s = true
  /-- 10 R33: RESET is 1 only during the reset pulse of step B2 -/
  resetPin : s.pinReset = true → s.step = some .b2 ∧ (s.sub = .item 1 ∨ s.sub = .item 2)
  /-- 10 R31: DATA is 1 only inside S6; it is 0 in the gap, and 0 where a repetition starts (41 R144) -/
  dataPin : s.pinData = true →
    s.step = some .s6 ∧ s.sub ≠ .gapHold ∧ (s.sub = .symPin → s.idx ≠ 0)
  /-- 10 R37: the repetition counter stays below REPS -/
  repRange : s.step = some .s6 → s.rep.val < cfg.reps
  /-- 30 R95: only the three mode values are ever written to REG_OPMODE -/
  radio : s.radioMode = none ∨ ∃ m, s.radioMode = some (modeVal m)
  /-- 42 R160: while a poll runs, the mode it waits for is the last one written -/
  entered : ∀ m, entering cfg s.step = some m → s.sub = .pollStart ∨ s.sub = .pollRead ∨ s.sub = .pollTest →
    s.radioMode = some (modeVal m)
  /-- 41 R144: the symbol loop runs on a block that is READY, and Transmit is the last mode it wrote -/
  loopReady : s.step = some .s6 → s.rstate = .ready ∧ s.radioMode = some (modeVal .transmit)
  /-- 43 R193: from S3 to S5 the block is READY -/
  sendReady : s.step = some .s3 ∨ s.step = some .s4 ∨ s.step = some .s5 → s.rstate = .ready
  /-- 70 R261: the configuration writes are issued with Standby the last mode written -/
  standby : cfg.beginEntersStandby = true →
    s.step = some .b7 ∨ s.step = some .b8 ∨ s.step = some .b9 ∨ s.step = some .b10 ∨ s.step = some .b11 →
    s.radioMode = some (modeVal .standby)
  /-- 10 R41, 41 R137, R138: every event is one the block may produce -/
  events : ∀ e ∈ s.trace, eventAllowed cfg e = true

/-! ### The write-then-poll discipline (20 R73, 70 R260) -/

/-- Where a trace stands with the discipline. -/
inductive Poll where
  /-- no poll is owed -/
  | free
  /-- REG_OPMODE was written; the reading of `t0` comes next -/
  | written
  /-- the poll that began at `t0` has neither succeeded nor failed -/
  | polling (t0 : Time)
  /-- something else came before the poll had ended -/
  | broken
  deriving DecidableEq, Repr

/-- One event of a trace. A poll ends by a status read with bit 7 = 1 or by a reading at which it has timed out (42 R161);
reset ends it too (70 R251). Until then only the poll's own reads and readings may occur. -/
def pollEvent (cfg : Config) : Poll → Event → Poll
  | .free, .busW a _ => if a = cfg.regOpmode then .written else .free
  | .free, _ => .free
  | .written, .time t => .polling t
  | .written, .reset => .free
  | .written, _ => .broken
  | .polling t0, .busR a v => if a = cfg.regStatus then (if modeReady v then .free else .polling t0) else .broken
  | .polling t0, .time t => if timedOut cfg t0 t then .free else .polling t0
  | .polling _, .reset => .free
  | .polling _, _ => .broken
  | .broken, _ => .broken

/-- Where a whole trace stands. -/
def pollOf (cfg : Config) (es : List Event) : Poll := es.foldl (pollEvent cfg) .free

/-- Where the pc says the trace stands. -/
def pollDue (cfg : Config) (s : State) : Poll :=
  match (entering cfg s.step).isSome, s.sub with
  | true, .pollStart => .written
  | true, .pollRead => .polling s.t0
  | true, .pollTest => .polling s.t0
  | _, _ => .free

/-- The trace keeps the discipline and stands where the pc says. -/
def Disciplined (cfg : Config) (s : State) : Prop := pollOf cfg s.trace = pollDue cfg s

/-! ### Reading a trace -/

/-- The register writes of a trace, in order. -/
def writesOf : List Event → List (RegAddr × Byte)
  | [] => []
  | .busW a v :: es => (a, v) :: writesOf es
  | _ :: es => writesOf es

/-- The event is the completion of a host operation. -/
def isDone : Event → Bool
  | .done _ _ => true
  | _ => false

/-- The event writes the DATA pin. -/
def isDataPin : Event → Bool
  | .pin .data _ => true
  | _ => false

/-- The event is a hold. -/
def isHold : Event → Bool
  | .hold _ => true
  | _ => false

/-- The event reads the status register. -/
def isStatusRead (cfg : Config) : Event → Bool
  | .busR a _ => a == cfg.regStatus
  | _ => false

/-- The events of one repetition of a frame (41 R130). -/
def repetitionEvents (cfg : Config) (f : Frame) : List Event :=
  f.toList.flatMap (fun l => [.pin .data l, .hold cfg.symbolUs]) ++ [.pin .data false, .hold cfg.gapUs]

/-- The events of a transmission (41 R130). -/
def transmitEvents (cfg : Config) (f : Frame) : List Event :=
  (List.replicate cfg.reps (repetitionEvents cfg f)).flatten

/-- The reads and time tests of a poll, in turn: each answer of the status register with the reading after it (42 R161). -/
def pollEvents (cfg : Config) (ps : List (Byte × Time)) : List Event :=
  ps.flatMap (fun p => [.busR cfg.regStatus p.1, .time p.2])

/-! ### Groups of instructions -/

/-- The SEND rows of the ten defined codes, with their codes (30 R85). -/
def definedSends : List (Instr × Fin 10) :=
  [(.sendLightToggle, 0), (.sendFanToggle, 1), (.sendLightDown, 2), (.sendLightUp, 3), (.sendFan1, 4), (.sendFan2, 5),
   (.sendFan3, 6), (.sendFan4, 7), (.sendFan5, 8), (.sendFan6, 9)]

/-- The SEND rows of the six undefined codes, with their codes (30 R86). -/
def undefinedSends : List (Instr × BitVec 4) :=
  [(.sendUndefined10, 10), (.sendUndefined11, 11), (.sendUndefined12, 12), (.sendUndefined13, 13),
   (.sendUndefined14, 14), (.sendUndefined15, 15)]

/-- All sixteen SEND rows, with their codes. -/
def allSends : List (Instr × BitVec 4) :=
  definedSends.map (fun p => (p.1, BitVec.ofNat 4 p.2.val)) ++ undefinedSends

/-- The instructions that are accepted when the engine is idle (30 R83). -/
def acceptedRequests : List Instr := [.begin, .status] ++ allSends.map Prod.fst

end Sys2Proof.Safety
end

