-- ==== Sys2Proof/Certificates/Slice0/Obligations.lean ====
section
/-! DEFINITION. The statements for the provers, each from the numbered rules of spec/. -/

open Sys2Proof Sys2Proof.Machine Sys2Proof.Safety

/-! ### Encodings (30) -/

/-- Decoding the bytes of a well-formed instruction gives it back; the internal operations have no bytes (30 R99). -/
def Obligations.DecodeEncodeRoundTrip : Prop :=
  ∀ i : Instr, i.wf = true →
    (i.hasEncoding = true → decode (encode i) = .ok i) ∧ (i.hasEncoding = false → encode i = [])

/-- What decodes is well formed, and encoding it gives the bytes back, a read's filler byte excepted (30 R90: don't-care; the
model's choice of log 17 is to ignore it); one or two bytes always decode. -/
def Obligations.EncodeDecodeRoundTrip : Prop :=
  (∀ w, ∃ i, decode [w] = .ok i ∧ i.wf = true ∧ i.hasEncoding = true ∧ encode i = [w]) ∧
  (∀ b0 b1, ∃ i, decode [b0, b1] = .ok i ∧ i.wf = true ∧ i.hasEncoding = true ∧
    encode i = [b0, if b0.getLsbD 7 then b1 else 0x00]) ∧
  decode [] = .error .empty ∧ (∀ bs, 2 < bs.length → decode bs = .error (.tooLong bs.length))

/-- 30 R82: the six cases in order, what "ignored" means, and which words fall in which. -/
def Obligations.RequestWordsDecodeInOrder : Prop :=
  (∀ w : Byte,
    (w.extractLsb' 4 2 ≠ 0 → ∀ s, exec (decodeRequest w) s = .next s) ∧
    (w.extractLsb' 4 2 = 0 → w.extractLsb' 0 4 = 0 → w.extractLsb' 6 2 = 0 →
      decodeRequest w = .nop ∧ ∀ s, exec (decodeRequest w) s = .next s) ∧
    (w.extractLsb' 4 2 = 0 → w.extractLsb' 0 4 ≠ 0 → w.extractLsb' 6 2 ≠ 2 →
      ∀ s, exec (decodeRequest w) s = .next s) ∧
    (w.extractLsb' 4 2 = 0 → w.extractLsb' 0 4 = 0 → w.extractLsb' 6 2 = 1 → decodeRequest w = .begin) ∧
    (w.extractLsb' 4 2 = 0 → w.extractLsb' 0 4 = 0 → w.extractLsb' 6 2 = 3 → decodeRequest w = .status) ∧
    (w.extractLsb' 4 2 = 0 → w.extractLsb' 6 2 = 2 → (decodeRequest w, w.extractLsb' 0 4) ∈ allSends)) ∧
  (∀ w : Byte, decodeRequest w ∈ acceptedRequests ↔ w = 0x40 ∨ w = 0xC0 ∨ (0x80 ≤ w.toNat ∧ w.toNat ≤ 0x8F)) ∧
  (∀ w : Byte, decodeRequest w = .nop ↔ w = 0x00) ∧
  ((List.range 256).filter (fun n =>
    decodeRequest (BitVec.ofNat 8 n) ∉ acceptedRequests ∧ decodeRequest (BitVec.ofNat 8 n) ≠ .nop)).length = 237

/-- Bit 7 of byte 0 alone is the direction, and every frame is two bytes long (30 R91); the three mode writes decode to their
own rows (30 R100). A read's second byte is not looked at when it is decoded (the model's choice, log 17) and is the filler
0x00 when it is sent (the choice of 30 R90). -/
def Obligations.FrameDirectionIsBitSeven : Prop :=
  (∀ b0 b1 : Byte, b0.getLsbD 7 = false → decode [b0, b1] = .ok (.busRead (b0.extractLsb' 0 7))) ∧
  (∀ b0 b1 : Byte, b0.getLsbD 7 = true → decode [b0, b1] = .ok (
    if b0 = 0x81 ∧ b1 = 0x00 then .modeSleep
    else if b0 = 0x81 ∧ b1 = 0x04 then .modeStandby
    else if b0 = 0x81 ∧ b1 = 0x0C then .modeTransmit
    else .busWrite (b0.extractLsb' 0 7) b1)) ∧
  (∀ a, ∃ b0, encode (.busRead a) = [b0, 0x00] ∧ b0.toNat = a.toNat) ∧
  (∀ a v, ∃ b0, encode (.busWrite a v) = [b0, v] ∧ b0.toNat = a.toNat + 0x80)

/-- Words written out bit by bit from 30 R80, R85 and R90. -/
def Obligations.WrittenWordsDecode : Prop :=
  decode [0b00000000] = .ok .nop ∧ decode [0b01000000] = .ok .begin ∧ decode [0b10000101] = .ok .sendFan2 ∧
  decode [0b10001100] = .ok .sendUndefined12 ∧ decode [0b11000000] = .ok .status ∧
  decode [0b01100011] = .ok (.reservedRsv10 0b01 0b0011) ∧ decode [0b11001001] = .ok (.reservedOp11Arg 0b1001) ∧
  decode [0b00100111, 0b00000000] = .ok (.busRead 0x27) ∧
  decode [0b10000010, 0b01101000] = .ok (.busWrite 0x02 0x68) ∧
  decode [0b10000001, 0b00001100] = .ok .modeTransmit

/-! ### The step -/

/-- A step runs the decoded instruction: the word the host presents to an idle engine, or the bus frame at the register
interface, and the same for an instruction placed by `withFetchWord`. -/
def Obligations.StepRunsTheDecodedInstruction : Prop :=
  (∀ s w rest, s.issue = none → s.busy = false → s.hostIn = .word w :: rest →
    ∃ i, decode [w] = .ok i ∧ i.wf = true ∧ step s = exec i { s with hostIn := rest, done := false }) ∧
  (∀ s f, s.issue = some f →
    ∃ i, decode [f.extractLsb' 8 8, f.extractLsb' 0 8] = .ok i ∧ i.wf = true ∧
      step s = exec i { s with issue := none }) ∧
  (∀ (s : State) nbits w, 0 < nbits → nbits ≤ 8 → s.busy = false →
    ∃ i, decodeTableWord nbits w = some i ∧ step (s.withFetchWord nbits w) = exec i { s with issue := none, done := false }) ∧
  (∀ (s : State) nbits w, 8 < nbits → nbits ≤ 16 →
    ∃ i, decodeTableWord nbits w = some i ∧ step (s.withFetchWord nbits w) = exec i { s with issue := none })

/-- What a step does when no instruction is presented: an idle engine waits (70 R254), with its `done` pulse over, and an
operation in progress is carried to its end. A busy engine without a step is the model's one fault (log 19). -/
def Obligations.StepWithoutAnInstruction : Prop :=
  (∀ s, s.issue = none → s.busy = false → (s.hostIn = [] ∨ ∃ rest, s.hostIn = .idle :: rest) →
    step s = .next { s with hostIn := s.hostIn.tail, done := false }) ∧
  (∀ s, s.issue = none → s.busy = true → s.step ≠ none → step s = .next (finish Config.hw s)) ∧
  (∀ s, s.issue = none → s.busy = true → s.step = none → step s = .fault .lostStep)

/-! ### Reset (70 R250, R251) -/

/-- 70 R250: the reset input on an idle engine. The reset values of `sub`, `pollK`, `r`, `ok`, `rdata`, `lookup` and `built`
are the model's choice (log 15). -/
def Obligations.ResetInputSetsEveryField : Prop :=
  ∀ s rest, s.issue = none → s.busy = false → s.hostIn = .reset :: rest →
    step s = .next { s with
      rstate := .uninit, busy := false, op := .none, step := none, done := false, result := false, err := .none,
      idSeen := 0x00, cmd := 0, fbuf := Vector.replicate 166 false, rep := 0, idx := 0, t0 := 0, pmode := .sleep,
      radioMode := none, pinCs := true, pinReset := false, pinData := false, trace := s.trace ++ [.reset],
      sub := .item 0, pollK := 0, r := false, ok := false, rdata := 0x00, lookup := none, built := none,
      hostIn := rest }

/-- 70 R251: reset during an operation. `quiet` is what the host does before it asserts reset; the operation is still in
progress at that instant. The reset values of `sub`, `pollK`, `r`, `ok`, `rdata`, `lookup` and `built` are the model's choice
(log 15). -/
def Obligations.ResetAbortsTheOperation : Prop :=
  ∀ cfg s quiet rest, (∀ x ∈ quiet, x ≠ HostIn.reset) → s.hostIn = quiet ++ .reset :: rest →
    quiet.length < opInstants cfg → (runOp cfg quiet.length s).busy = true →
    finish cfg s = { runOp cfg quiet.length s with
      rstate := .uninit, busy := false, op := .none, step := none, done := false, result := false, err := .none,
      idSeen := 0x00, cmd := 0, fbuf := Vector.replicate 166 false, rep := 0, idx := 0, t0 := 0, pmode := .sleep,
      radioMode := none, pinCs := true, pinReset := false, pinData := false,
      trace := (runOp cfg quiet.length s).trace ++ [.reset],
      sub := .item 0, pollK := 0, r := false, ok := false, rdata := 0x00, lookup := none, built := none,
      hostIn := rest }

/-- The machine right after reset (10 R21), and what it shows: not ready, idle, every pin at its idle level. -/
def Obligations.ResetStateValues : Prop :=
  State.reset.rstate = .uninit ∧ State.reset.busy = false ∧ State.reset.op = .none ∧ State.reset.step = none ∧
  State.reset.done = false ∧ State.reset.result = false ∧ State.reset.err = .none ∧ State.reset.idSeen = 0x00 ∧
  State.reset.cmd = 0 ∧ State.reset.fbuf = Vector.replicate 166 false ∧ State.reset.rep = 0 ∧ State.reset.idx = 0 ∧
  State.reset.t0 = 0 ∧ State.reset.pmode = .sleep ∧ State.reset.radioMode = none ∧ State.reset.pinCs = true ∧
  State.reset.pinReset = false ∧ State.reset.pinData = false ∧ State.reset.trace = [.reset] ∧
  readyOut State.reset = false

/-! ### Words that are ignored, dropped or accepted (43 R190, R191, R196) -/

/-- 43 R196: NOP and the reserved words leave the state as it is, at any time. -/
def Obligations.IgnoredWordsChangeNothing : Prop :=
  ∀ s, exec .nop s = .next s ∧
    (∀ op arg, exec (.reservedRsv01 op arg) s = .next s) ∧ (∀ op arg, exec (.reservedRsv10 op arg) s = .next s) ∧
    (∀ op arg, exec (.reservedRsv11 op arg) s = .next s) ∧ (∀ arg, exec (.reservedOp00Arg arg) s = .next s) ∧
    (∀ arg, exec (.reservedOp01Arg arg) s = .next s) ∧ (∀ arg, exec (.reservedOp11Arg arg) s = .next s)

/-- 43 R191: while the engine is busy every request is dropped, and at any instant of an operation a word presented is as good
as none. -/
def Obligations.BusyEngineDropsRequests : Prop :=
  (∀ i ∈ acceptedRequests, ∀ s, s.busy = true → exec i s = .next s) ∧
  (∀ cfg s w rest, s.busy = true → s.hostIn = .word w :: rest → tick cfg s = tick cfg { s with hostIn := .idle :: rest })

/-- Words presented during an operation change nothing but how much of the host's list is consumed (43 R191, 70 R264). -/
def Obligations.HostWordsCannotTouchAnOperation : Prop :=
  ∀ cfg s, s.busy = true → (∀ x ∈ s.hostIn, x ≠ HostIn.reset) →
    ∃ n, finish cfg s = { finish cfg { s with hostIn := [] } with hostIn := s.hostIn.drop n }

/-- 10 R34: the level on IRQ changes no step in anything but itself. -/
def Obligations.IrqHasNoEffect : Prop :=
  ∀ s b, step { s with irq := b } =
    match step s with
    | .next t => .next { t with irq := b }
    | .fault f => .fault f
    | .refused x => .refused x

/-! ### STATUS (43 R194) -/

/-- 43 R194: STATUS on an idle engine, whole: its result is `ready`, and nothing but what Complete writes changes. `sub` is
the model's own (log 15). -/
def Obligations.StatusReportsReadiness : Prop :=
  ∀ s, s.busy = false → s.hostIn = [] →
    exec .status s = .next { s with
      result := s.rstate == .ready, op := .none, step := none, sub := .item 0, done := true,
      trace := s.trace ++ [.req 0xC0, .done .status (s.rstate == .ready)] }

/-! ### SEND (43 R193) -/

/-- 60 R225: any SEND on a block that is not READY, whole: two events, and `err` records it. `sub` is the model's own (log
15). -/
def Obligations.SendWhenNotReadyIsANoOp : Prop :=
  ∀ p ∈ allSends, ∀ s, s.busy = false → s.hostIn = [] → s.rstate ≠ .ready →
    exec p.1 s = .next { s with
      cmd := p.2, err := .notReady, result := false, op := .none, step := none, sub := .item 0, done := true,
      trace := s.trace ++ [.req (0x80 + p.2.zeroExtend 8), .done .send false] }

/-- 30 R86: a SEND of an undefined code, in every readiness state: two events. NOT_READY is tested first (43 R198). The
model's own fields are those of log 15. -/
def Obligations.SendOfUndefinedCodeIsANoOp : Prop :=
  ∀ p ∈ undefinedSends, catalogLookup Config.hw p.2 = none ∧ ∀ s, s.busy = false → s.hostIn = [] →
    exec p.1 s = .next { s with
      cmd := p.2, err := if s.rstate = .ready then .unknownCmd else .notReady,
      lookup := if s.rstate = .ready then none else s.lookup,
      result := false, op := .none, step := none, sub := .item 0, done := true,
      trace := s.trace ++ [.req (0x80 + p.2.zeroExtend 8), .done .send false] }

/-- A SEND of a defined code on a READY block whose transceiver reports mode-ready at the first read of each poll: the whole
next state and every event, in the order of 43 R199. That `rep` and `idx` keep the loop's last values is the model's reading
(log 22). The model's own fields are those of log 15. -/
def Obligations.SendTransmitsTheFrame : Prop :=
  ∀ p ∈ definedSends, ∀ s, s.busy = false → s.hostIn = [] → s.rstate = .ready →
    modeReady (nextAnswer 0x27 s) = true → modeReady (nextAnswer 0x27 (takeAnswer s)) = true →
    exec p.1 s = .next { s with
      cmd := BitVec.ofNat 4 p.2, lookup := some Config.hw.payloads[p.2],
      built := some (frameOf Config.hw Config.hw.payloads[p.2]), fbuf := frameOf Config.hw Config.hw.payloads[p.2],
      rep := 4, idx := 165, t0 := nextReading (takeReading s), pmode := .sleep, pollK := 0, ok := true,
      rdata := nextAnswer 0x27 (takeAnswer s), radioMode := some 0x00, pinCs := true, pinData := false,
      err := .none, result := false, op := .none, step := none, sub := .item 0, done := true,
      busIn := (takeAnswer (takeAnswer s)).busIn, busDraws := (takeAnswer (takeAnswer s)).busDraws,
      timeIn := (takeReading (takeReading s)).timeIn, timeDraws := (takeReading (takeReading s)).timeDraws,
      trace := s.trace ++
        [.req (BitVec.ofNat 8 (0x80 + p.2)), .busW 0x01 0x0C, .time (nextReading s), .busR 0x27 (nextAnswer 0x27 s)] ++
        transmitEvents Config.hw (frameOf Config.hw Config.hw.payloads[p.2]) ++
        [.busW 0x01 0x00, .time (nextReading (takeReading s)), .busR 0x27 (nextAnswer 0x27 (takeAnswer s)),
          .done .send false] }

/-- A SEND whose Transmit poll times out at its first time test ends without transmitting and latches FAULTED (42 R163): no
DATA event and no Sleep write. The reading of the time test is the one the time-base law allows (60 R236; log 7). The model's
own fields are those of log 15. -/
def Obligations.SendTransmitTimeoutEndsTheSend : Prop :=
  ∀ p ∈ definedSends, ∀ s, s.busy = false → s.hostIn = [] → s.rstate = .ready →
    modeReady (nextAnswer 0x27 s) = false →
    ∀ t, t = lawfulReading Config.hw (nextReading s) 1 (nextReading (takeReading s)) → 10000 ≤ (t - nextReading s).toNat →
    exec p.1 s = .next { s with
      cmd := BitVec.ofNat 4 p.2, lookup := some Config.hw.payloads[p.2],
      built := some (frameOf Config.hw Config.hw.payloads[p.2]), fbuf := frameOf Config.hw Config.hw.payloads[p.2],
      t0 := nextReading s, pmode := .transmit, pollK := 1, ok := false, rdata := nextAnswer 0x27 s,
      radioMode := some 0x0C, pinCs := true, rstate := .faulted, err := .timeoutTransmit,
      result := false, op := .none, step := none, sub := .item 0, done := true,
      busIn := (takeAnswer s).busIn, busDraws := (takeAnswer s).busDraws,
      timeIn := (takeReading (takeReading s)).timeIn, timeDraws := (takeReading (takeReading s)).timeDraws,
      trace := s.trace ++
        [.req (BitVec.ofNat 8 (0x80 + p.2)), .busW 0x01 0x0C, .time (nextReading s), .busR 0x27 (nextAnswer 0x27 s),
          .time t, .done .send false] }

/-- A SEND whose Sleep poll times out at its first time test has transmitted everything and latches FAULTED (42 R164). That
`rep` and `idx` keep the loop's last values is the model's reading (log 22), and the time test's reading is the one the law
allows (log 7). The model's own fields are those of log 15. -/
def Obligations.SendSleepTimeoutFollowsTheTransmission : Prop :=
  ∀ p ∈ definedSends, ∀ s, s.busy = false → s.hostIn = [] → s.rstate = .ready →
    modeReady (nextAnswer 0x27 s) = true → modeReady (nextAnswer 0x27 (takeAnswer s)) = false →
    ∀ t, t = lawfulReading Config.hw (nextReading (takeReading s)) 1 (nextReading (takeReading (takeReading s))) →
    10000 ≤ (t - nextReading (takeReading s)).toNat →
    exec p.1 s = .next { s with
      cmd := BitVec.ofNat 4 p.2, lookup := some Config.hw.payloads[p.2],
      built := some (frameOf Config.hw Config.hw.payloads[p.2]), fbuf := frameOf Config.hw Config.hw.payloads[p.2],
      rep := 4, idx := 165, t0 := nextReading (takeReading s), pmode := .sleep, pollK := 1, ok := false,
      rdata := nextAnswer 0x27 (takeAnswer s), radioMode := some 0x00, pinCs := true, pinData := false,
      rstate := .faulted, err := .timeoutSleep, result := false, op := .none, step := none, sub := .item 0, done := true,
      busIn := (takeAnswer (takeAnswer s)).busIn, busDraws := (takeAnswer (takeAnswer s)).busDraws,
      timeIn := (takeReading (takeReading (takeReading s))).timeIn,
      timeDraws := (takeReading (takeReading (takeReading s))).timeDraws,
      trace := s.trace ++
        [.req (BitVec.ofNat 8 (0x80 + p.2)), .busW 0x01 0x0C, .time (nextReading s), .busR 0x27 (nextAnswer 0x27 s)] ++
        transmitEvents Config.hw (frameOf Config.hw Config.hw.payloads[p.2]) ++
        [.busW 0x01 0x00, .time (nextReading (takeReading s)), .busR 0x27 (nextAnswer 0x27 (takeAnswer s)), .time t,
          .done .send false] }

/-- The sequencer carries out SEND's pseudocode (43 R193): from acceptance on an idle engine, for every code and whatever the
host, the transceiver and the time base do. Either no reset comes before the end, and the state is that of the straight-line
program, the host's words dropped; or the run reaches its `quiet.length`-th instant, where reset aborts it (70 R251). -/
def Obligations.SendRefinesItsProgram : Prop :=
  ∀ cfg, configWf cfg = true → ∀ c s, s.busy = false →
    (∃ n, (∀ x ∈ s.hostIn.take n, x ≠ HostIn.reset) ∧
      send cfg c s = withHost (s.hostIn.drop n) (sendProgram cfg (acceptSend c (withHost [] s)))) ∨
    (∃ quiet rest, (∀ x ∈ quiet, x ≠ HostIn.reset) ∧ s.hostIn = quiet ++ .reset :: rest ∧
      (runOp cfg quiet.length (acceptSend c (withHost [] s))).busy = true ∧
      send cfg c s = applyReset (withHost rest (runOp cfg quiet.length (acceptSend c (withHost [] s)))))

/-- SEND writes no register but REG_OPMODE, and there only Transmit and Sleep, whatever the host, the transceiver and the time
base do (42 R179). -/
def Obligations.SendWritesOnlyTheModeRegister : Prop :=
  ∀ cfg, configWf cfg = true → ∀ c s, s.busy = false →
    ∃ es, (send cfg c s).trace = s.trace ++ es ∧
      ∀ w ∈ writesOf es, w = (cfg.regOpmode, 0x0C) ∨ w = (cfg.regOpmode, 0x00)

/-! ### BEGIN (43 R192) -/

/-- BEGIN against a transceiver that answers 0x24 and reports mode-ready at the first read of each poll: the whole next
state, and the 22 events of vector V-BEG-1. The model's own fields are those of log 15. -/
def Obligations.BeginConfiguresTheRadio : Prop :=
  ∀ s, s.busy = false → s.hostIn = [] → nextAnswer 0x10 s = 0x24 →
    modeReady (nextAnswer 0x27 (takeAnswer s)) = true →
    modeReady (nextAnswer 0x27 (takeAnswer (takeAnswer s))) = true →
    exec .begin s = .next { s with
      rstate := .ready, err := .none, idSeen := 0x24, r := true, ok := true,
      rdata := nextAnswer 0x27 (takeAnswer (takeAnswer s)), t0 := nextReading (takeReading s), pmode := .sleep, pollK := 0,
      radioMode := some 0x00, pinCs := true, pinReset := false,
      result := true, op := .none, step := none, sub := .item 0, done := true,
      busIn := (takeAnswer (takeAnswer (takeAnswer s))).busIn,
      busDraws := (takeAnswer (takeAnswer (takeAnswer s))).busDraws,
      timeIn := (takeReading (takeReading s)).timeIn, timeDraws := (takeReading (takeReading s)).timeDraws,
      trace := s.trace ++
        [.req 0x40, .pin .reset true, .hold 100, .pin .reset false, .hold 5000, .busR 0x10 0x24,
          .busW 0x01 0x04, .time (nextReading s), .busR 0x27 (nextAnswer 0x27 (takeAnswer s)),
          .busW 0x02 0x68, .busW 0x07 0x6C, .busW 0x08 0x7A, .busW 0x09 0xE1, .busW 0x03 0x25, .busW 0x04 0x80,
          .busW 0x11 0x5F, .busW 0x13 0x1A, .busW 0x26 0x07,
          .busW 0x01 0x00, .time (nextReading (takeReading s)),
          .busR 0x27 (nextAnswer 0x27 (takeAnswer (takeAnswer s))), .done .begin true] }

/-- 43 R202: a BEGIN that fails the identification check, whole: no register write, and `rstate` keeps its value, READY
included (10 R26). The model's own fields are those of log 15. -/
def Obligations.BeginIdMismatchWritesNothing : Prop :=
  ∀ s, s.busy = false → s.hostIn = [] → nextAnswer 0x10 s ≠ 0x24 →
    exec .begin s = .next { s with
      err := .idMismatch, idSeen := nextAnswer 0x10 s, r := false, ok := false, rdata := nextAnswer 0x10 s,
      pinCs := true, pinReset := false, result := false, op := .none, step := none, sub := .item 0, done := true,
      busIn := (takeAnswer s).busIn, busDraws := (takeAnswer s).busDraws,
      trace := s.trace ++
        [.req 0x40, .pin .reset true, .hold 100, .pin .reset false, .hold 5000, .busR 0x10 (nextAnswer 0x10 s),
          .done .begin false] }

/-- BEGIN whose Standby poll times out at its first time test (42 R162): no configuration write, FAULTED. The model's own
fields are those of log 15. -/
def Obligations.BeginStandbyTimeoutFails : Prop :=
  ∀ s, s.busy = false → s.hostIn = [] → nextAnswer 0x10 s = 0x24 →
    modeReady (nextAnswer 0x27 (takeAnswer s)) = false →
    ∀ t, t = lawfulReading Config.hw (nextReading s) 1 (nextReading (takeReading s)) → 10000 ≤ (t - nextReading s).toNat →
    exec .begin s = .next { s with
      rstate := .faulted, err := .timeoutStandby, idSeen := 0x24, r := false, ok := false,
      rdata := nextAnswer 0x27 (takeAnswer s), t0 := nextReading s, pmode := .standby, pollK := 1,
      radioMode := some 0x04, pinCs := true, pinReset := false,
      result := false, op := .none, step := none, sub := .item 0, done := true,
      busIn := (takeAnswer (takeAnswer s)).busIn, busDraws := (takeAnswer (takeAnswer s)).busDraws,
      timeIn := (takeReading (takeReading s)).timeIn, timeDraws := (takeReading (takeReading s)).timeDraws,
      trace := s.trace ++
        [.req 0x40, .pin .reset true, .hold 100, .pin .reset false, .hold 5000, .busR 0x10 0x24,
          .busW 0x01 0x04, .time (nextReading s), .busR 0x27 (nextAnswer 0x27 (takeAnswer s)), .time t,
          .done .begin false] }

/-- BEGIN whose Sleep poll times out at its first time test (42 R164): every configuration write has been issued, FAULTED.
The model's own fields are those of log 15. -/
def Obligations.BeginSleepTimeoutFails : Prop :=
  ∀ s, s.busy = false → s.hostIn = [] → nextAnswer 0x10 s = 0x24 →
    modeReady (nextAnswer 0x27 (takeAnswer s)) = true →
    modeReady (nextAnswer 0x27 (takeAnswer (takeAnswer s))) = false →
    ∀ t, t = lawfulReading Config.hw (nextReading (takeReading s)) 1 (nextReading (takeReading (takeReading s))) →
    10000 ≤ (t - nextReading (takeReading s)).toNat →
    exec .begin s = .next { s with
      rstate := .faulted, err := .timeoutSleep, idSeen := 0x24, r := false, ok := false,
      rdata := nextAnswer 0x27 (takeAnswer (takeAnswer s)), t0 := nextReading (takeReading s), pmode := .sleep, pollK := 1,
      radioMode := some 0x00, pinCs := true, pinReset := false,
      result := false, op := .none, step := none, sub := .item 0, done := true,
      busIn := (takeAnswer (takeAnswer (takeAnswer s))).busIn,
      busDraws := (takeAnswer (takeAnswer (takeAnswer s))).busDraws,
      timeIn := (takeReading (takeReading (takeReading s))).timeIn,
      timeDraws := (takeReading (takeReading (takeReading s))).timeDraws,
      trace := s.trace ++
        [.req 0x40, .pin .reset true, .hold 100, .pin .reset false, .hold 5000, .busR 0x10 0x24,
          .busW 0x01 0x04, .time (nextReading s), .busR 0x27 (nextAnswer 0x27 (takeAnswer s)),
          .busW 0x02 0x68, .busW 0x07 0x6C, .busW 0x08 0x7A, .busW 0x09 0xE1, .busW 0x03 0x25, .busW 0x04 0x80,
          .busW 0x11 0x5F, .busW 0x13 0x1A, .busW 0x26 0x07,
          .busW 0x01 0x00, .time (nextReading (takeReading s)),
          .busR 0x27 (nextAnswer 0x27 (takeAnswer (takeAnswer s))), .time t, .done .begin false] }

/-- The sequencer carries out BEGIN's pseudocode (43 R192): from acceptance on an idle engine, whatever the host, the
transceiver and the time base do. Either no reset comes before the end, and the state is that of the straight-line program,
the host's words dropped; or the run reaches its `quiet.length`-th instant, where reset aborts it (70 R251). -/
def Obligations.BeginRefinesItsProgram : Prop :=
  ∀ cfg, configWf cfg = true → ∀ s, s.busy = false →
    (∃ n, (∀ x ∈ s.hostIn.take n, x ≠ HostIn.reset) ∧
      begin cfg s = withHost (s.hostIn.drop n) (beginProgram cfg (acceptBegin (withHost [] s)))) ∨
    (∃ quiet rest, (∀ x ∈ quiet, x ≠ HostIn.reset) ∧ s.hostIn = quiet ++ .reset :: rest ∧
      (runOp cfg quiet.length (acceptBegin (withHost [] s))).busy = true ∧
      begin cfg s = applyReset (withHost rest (runOp cfg quiet.length (acceptBegin (withHost [] s)))))

/-! ### Bus transactions (42 R151, R152; 30 R95) -/

/-- 42 R151: BUS_READ, whole: one event with the transceiver's answer, which is returned, and no state of the spec's. CS is
high again (42 R153). `rdata` is the model's own (log 15). -/
def Obligations.BusReadReturnsTheAnswer : Prop :=
  ∀ a s, exec (.busRead a) s = .next { s with
      rdata := nextAnswer a s, pinCs := true,
      busIn := (takeAnswer s).busIn, busDraws := (takeAnswer s).busDraws,
      trace := s.trace ++ [.busR a (nextAnswer a s)] } ∧
    (∀ v bs, s.busIn = v :: bs → nextAnswer a s = v ∧ (takeAnswer s).busIn = bs ∧
      (takeAnswer s).busDraws = s.busDraws) ∧
    (s.busIn = [] → nextAnswer a s = Config.busAnswer s.busDraws a ∧ (takeAnswer s).busIn = [] ∧
      (takeAnswer s).busDraws = s.busDraws + 1)

/-- 42 R152: BUS_WRITE, whole: one event, and `radio_mode` when the register is REG_OPMODE. -/
def Obligations.BusWriteRecordsTheMode : Prop :=
  ∀ a v s, exec (.busWrite a v) s = .next { s with
    radioMode := if a = 0x01 then some v else s.radioMode, pinCs := true, trace := s.trace ++ [.busW a v] }

/-- The three mode writes (30 R95): each is the one write transaction of its mode value. That no poll follows in these rows
is the model's reading (log 16). -/
def Obligations.ModeWritesRecordTheMode : Prop :=
  ∀ s,
    exec .modeSleep s = .next { s with
      radioMode := some 0x00, pinCs := true, trace := s.trace ++ [.busW 0x01 0x00] } ∧
    exec .modeStandby s = .next { s with
      radioMode := some 0x04, pinCs := true, trace := s.trace ++ [.busW 0x01 0x04] } ∧
    exec .modeTransmit s = .next { s with
      radioMode := some 0x0C, pinCs := true, trace := s.trace ++ [.busW 0x01 0x0C] }

/-! ### Catalog and frames (40) -/

/-- 40 R110: CATALOG_LOOKUP: a payload for every code up to 9 and none above, no state of the spec's written, no event.
`lookup` is the model's own (log 15). -/
def Obligations.CatalogLookupAnswersEveryCode : Prop :=
  ∀ c : BitVec 4,
    (∀ h : c.toNat ≤ 9, catalogLookup Config.hw c = some Config.hw.payloads[c.toNat]) ∧
    (9 < c.toNat → catalogLookup Config.hw c = none) ∧
    ∀ s, exec (.catalogLookup c) s = .next { s with lookup := catalogLookup Config.hw c }

/-- 40 R120: BUILD_FRAME: no frame of no payload, else the concatenation; no state of the spec's written, no event. `built`
is the model's own (log 15). -/
def Obligations.BuildFrameConcatenates : Prop :=
  ∀ s, exec (.buildFrame none) s = .next { s with built := none } ∧
    ∀ p : Payload, ∃ f : Frame, exec (.buildFrame (some p)) s = .next { s with built := some f } ∧
      f.toList = Config.hw.preamble.toList ++ Config.hw.syncPhrase.toList ++ p.toList

/-- 30 R88: the frame layout, position by position; so two frames agree at positions 0 to 114, and differ exactly when their
payloads do (41 R141). -/
def Obligations.FrameLayout : Prop :=
  ∀ cfg (p q : Payload),
    (∀ (i : Nat) (h : i < 33), (frameOf cfg p)[i] = cfg.preamble[i]) ∧
    (∀ (i : Nat) (_ : 33 ≤ i) (h : i < 115), (frameOf cfg p)[i] = cfg.syncPhrase[i - 33]) ∧
    (∀ (i : Nat) (_ : 115 ≤ i) (h : i < 166), (frameOf cfg p)[i] = p[i - 115]) ∧
    (∀ (i : Nat) (h : i < 115), (frameOf cfg p)[i] = (frameOf cfg q)[i]) ∧ (frameOf cfg p = frameOf cfg q ↔ p = q)

/-! ### The symbol transmitter (41) -/

/-- 41 R137: PIN_WRITE, whole; writing the level a pin already has appends its event too. -/
def Obligations.PinWriteDrivesOnePin : Prop :=
  ∀ l s,
    exec (.pinWrite .cs l) s = .next { s with pinCs := l, trace := s.trace ++ [.pin .cs l] } ∧
    exec (.pinWrite .reset l) s = .next { s with pinReset := l, trace := s.trace ++ [.pin .reset l] } ∧
    exec (.pinWrite .data l) s = .next { s with pinData := l, trace := s.trace ++ [.pin .data l] }

/-- 41 R138: HOLD, whole. The rule has d > 0; that the ill-formed HOLD 0 records itself too is the model's choice (log 29). -/
def Obligations.HoldOnlyRecordsItself : Prop :=
  ∀ us s, exec (.hold us) s = .next { s with trace := s.trace ++ [.hold us] }

/-- 41 R130: TRANSMIT_FRAME of `fbuf`, whole: the events of the five repetitions, DATA left low. -/
def Obligations.TransmitFrameSendsEveryRepetition : Prop :=
  ∀ s, exec .transmitFrame s = .next { s with
      rep := 4, idx := 165, pinData := false, trace := s.trace ++ transmitEvents Config.hw s.fbuf } ∧
    transmitEvents Config.hw s.fbuf = (List.replicate 5
      (s.fbuf.toList.flatMap (fun l => [.pin .data l, .hold 300]) ++ [.pin .data false, .hold 8800])).flatten

/-- 41 R140: event counts and duration of one transmission. -/
def Obligations.TransmissionCountsAndDuration : Prop :=
  ∀ f : Frame,
    (transmitEvents Config.hw f).length = 1670 ∧
    (transmitEvents Config.hw f).countP isDataPin = 835 ∧ (transmitEvents Config.hw f).countP isHold = 835 ∧
    (∀ (i : Nat) (h : i < (transmitEvents Config.hw f).length),
      if i % 2 = 0 then isDataPin (transmitEvents Config.hw f)[i] else isHold (transmitEvents Config.hw f)[i]) ∧
    (transmitEvents Config.hw f).count (.hold 300) = 830 ∧ (transmitEvents Config.hw f).count (.hold 8800) = 5 ∧
    heldUs (transmitEvents Config.hw f) = 293000

/-- 41 R133: the symbol at (rep, idx) starts `rep × 58600 + idx × 300` µs after the loop's first event, and is held for
300 µs, to the next write of DATA. -/
def Obligations.SymbolStartTimes : Prop :=
  ∀ (f : Frame) (k i : Nat), k < 5 → ∀ hi : i < 166,
    (transmitEvents Config.hw f)[334 * k + 2 * i]? = some (.pin .data f[i]) ∧
    (transmitEvents Config.hw f)[334 * k + 2 * i + 1]? = some (.hold 300) ∧
    ((transmitEvents Config.hw f)[334 * k + 2 * i + 2]?.map isDataPin) = some true ∧
    heldUs ((transmitEvents Config.hw f).take (334 * k + 2 * i)) = k * 58600 + i * 300

/-! ### Radio operations (42) -/

/-- 42 R175: RESET_PULSE, whole: four events, RESET left low. -/
def Obligations.ResetPulseEvents : Prop :=
  ∀ s, exec .resetPulse s = .next { s with
    pinReset := false,
    trace := s.trace ++ [.pin .reset true, .hold 100, .pin .reset false, .hold 5000] }

/-- 42 R176: CHECK_ID, whole: one read of REG_VERSION, recorded in `id_seen`, compared with 0x24 in all 8 bits. The model's
own fields are those of log 15. -/
def Obligations.CheckIdComparesOneByte : Prop :=
  ∀ s, exec .checkId s = .next { s with
    idSeen := nextAnswer 0x10 s, ok := nextAnswer 0x10 s == 0x24, rdata := nextAnswer 0x10 s, pinCs := true,
    busIn := (takeAnswer s).busIn, busDraws := (takeAnswer s).busDraws,
    trace := s.trace ++ [.busR 0x10 (nextAnswer 0x10 s)] }

/-- WAIT_MODE_READY when the first read shows bit 7 = 1, whole: the poll succeeds at once, the time not tested (42 R161). The
model's own fields are those of log 15. -/
def Obligations.WaitModeReadySucceedsAtOnce : Prop :=
  ∀ m s, (nextAnswer 0x27 s).getLsbD 7 = true →
    exec (.waitModeReady m) s = .next { s with
      pmode := m, t0 := nextReading s, pollK := 0, ok := true, rdata := nextAnswer 0x27 s, pinCs := true,
      busIn := (takeAnswer s).busIn, busDraws := (takeAnswer s).busDraws,
      timeIn := (takeReading s).timeIn, timeDraws := (takeReading s).timeDraws,
      trace := s.trace ++ [.time (nextReading s), .busR 0x27 (nextAnswer 0x27 s)] }

/-- WAIT_MODE_READY always ends (42 R161, R168): from every state it answers a next state, either with success and `rstate`
and `err` as before, or with failure, FAULTED and the mode's own code; nothing outside the poll's fields changes. The model's
own fields are those of log 15. -/
def Obligations.WaitModeReadyHasTwoOutcomes : Prop :=
  ∀ m s, ∃ t es, exec (.waitModeReady m) s = .next t ∧
    (t.ok = true ∧ t.rstate = s.rstate ∧ t.err = s.err ∧ t.rdata.getLsbD 7 = true ∨
      t.ok = false ∧ t.rstate = .faulted ∧ t.rdata.getLsbD 7 = false ∧
        t.err = (match m with | .sleep => .timeoutSleep | .standby => .timeoutStandby | .transmit => .timeoutTransmit)) ∧
    t = { s with
      rstate := t.rstate, err := t.err, ok := t.ok, pmode := m, t0 := nextReading s, pollK := t.pollK, rdata := t.rdata,
      pinCs := true, busIn := t.busIn, busDraws := t.busDraws, timeIn := t.timeIn, timeDraws := t.timeDraws,
      trace := s.trace ++ .time (nextReading s) :: es }

/-- A poll that succeeds after any number of reads (42 R161): `ps` are the answers that are not ready, each with the reading
after it, all before the timeout and under the time-base law; `v` is the answer that is ready. The model's own fields are
those of log 15. -/
def Obligations.PollSucceedsAfterReads : Prop :=
  ∀ cfg, configWf cfg = true → ∀ m s (ps : List (Byte × Time)) v t0 bs ts,
    s.busIn = ps.map Prod.fst ++ v :: bs → s.timeIn = t0 :: (ps.map Prod.snd ++ ts) →
    (∀ p ∈ ps, p.1.getLsbD 7 = false) → v.getLsbD 7 = true →
    (∀ p ∈ ps, (p.2 - t0).toNat < cfg.timeoutUs) →
    (∀ (k : Nat) (h : k < ps.length), (k + 1) * cfg.tPollMinUs ≤ (ps[k].2 - t0).toNat) →
    waitModeReady cfg m s = { s with
      pmode := m, t0 := t0, pollK := ps.length, ok := true, rdata := v, pinCs := true, busIn := bs, timeIn := ts,
      trace := s.trace ++ .time t0 :: pollEvents cfg ps ++ [.busR cfg.regStatus v] }

/-- A poll that times out after any number of reads (42 R161, R166): `ps` as before, then one more answer `v` that is not
ready, with the first reading `t` at or past the timeout. The model's own fields are those of log 15. -/
def Obligations.PollTimesOutAfterReads : Prop :=
  ∀ cfg, configWf cfg = true → ∀ m s (ps : List (Byte × Time)) v t t0 bs ts,
    s.busIn = ps.map Prod.fst ++ v :: bs → s.timeIn = t0 :: (ps.map Prod.snd ++ t :: ts) →
    (∀ p ∈ ps, p.1.getLsbD 7 = false) → v.getLsbD 7 = false →
    (∀ p ∈ ps, (p.2 - t0).toNat < cfg.timeoutUs) → cfg.timeoutUs ≤ (t - t0).toNat →
    (∀ (k : Nat) (h : k < ps.length), (k + 1) * cfg.tPollMinUs ≤ (ps[k].2 - t0).toNat) →
    (ps.length + 1) * cfg.tPollMinUs ≤ (t - t0).toNat →
    waitModeReady cfg m s = { s with
      pmode := m, t0 := t0, pollK := ps.length + 1, ok := false, rstate := .faulted,
      err := (match m with | .sleep => .timeoutSleep | .standby => .timeoutStandby | .transmit => .timeoutTransmit),
      rdata := v, pinCs := true, busIn := bs, timeIn := ts,
      trace := s.trace ++ .time t0 :: pollEvents cfg (ps ++ [(v, t)]) }

/-- 42 R166: a poll that fails does so at its first time test at or past TIMEOUT_US, and right after that test. -/
def Obligations.PollNeverFailsEarly : Prop :=
  ∀ cfg, configWf cfg = true → ∀ m s, (waitModeReady cfg m s).ok = false →
    ∃ (ps : List (Byte × Time)) (v : Byte) (t : Time),
      (waitModeReady cfg m s).trace = s.trace ++ .time (nextReading s) :: pollEvents cfg (ps ++ [(v, t)]) ∧
      (∀ p ∈ ps, p.1.getLsbD 7 = false ∧ (p.2 - nextReading s).toNat < cfg.timeoutUs) ∧
      v.getLsbD 7 = false ∧ cfg.timeoutUs ≤ (t - nextReading s).toNat

/-- 42 R168: the bound on the status reads of a poll, whatever the transceiver answers and whatever the time base reads under
its law. -/
def Obligations.PollReadBound : Prop :=
  ∀ cfg, configWf cfg = true → ∀ m s, ∃ es, (waitModeReady cfg m s).trace = s.trace ++ es ∧
    es.countP (isStatusRead cfg) ≤ (cfg.timeoutUs + cfg.tPollMinUs - 1) / cfg.tPollMinUs + 1

/-- ENTER_MODE (42 R160): the write of the mode's value, recorded, then WAIT_MODE_READY, in every state; and its whole effect
when the first read shows bit 7 = 1. The model's own fields are those of log 15. -/
def Obligations.EnterModeWritesThenPolls : Prop :=
  ∀ q ∈ [(Mode.sleep, (0x00 : Byte)), (Mode.standby, 0x04), (Mode.transmit, 0x0C)], ∀ s,
    exec (.enterMode q.1) s = exec (.waitModeReady q.1)
      { s with radioMode := some q.2, pinCs := true, trace := s.trace ++ [.busW 0x01 q.2] } ∧
    ((nextAnswer 0x27 s).getLsbD 7 = true →
      exec (.enterMode q.1) s = .next { s with
        radioMode := some q.2, pmode := q.1, t0 := nextReading s, pollK := 0, ok := true, rdata := nextAnswer 0x27 s,
        pinCs := true, busIn := (takeAnswer s).busIn, busDraws := (takeAnswer s).busDraws,
        timeIn := (takeReading s).timeIn, timeDraws := (takeReading s).timeDraws,
        trace := s.trace ++ [.busW 0x01 q.2, .time (nextReading s), .busR 0x27 (nextAnswer 0x27 s)] })

/-- CONFIGURE_RADIO (42 R177): the nine writes with this hardware's values, whatever the transceiver answers, then
ENTER_MODE(SLEEP); and its whole effect when the first read shows bit 7 = 1. The model's own fields are those of log 15. -/
def Obligations.ConfigureRadioWritesTheTable : Prop :=
  ∀ s,
    exec .configureRadio s = exec (.enterMode .sleep) { s with
      pinCs := true,
      trace := s.trace ++ [.busW 0x02 0x68, .busW 0x07 0x6C, .busW 0x08 0x7A, .busW 0x09 0xE1, .busW 0x03 0x25,
        .busW 0x04 0x80, .busW 0x11 0x5F, .busW 0x13 0x1A, .busW 0x26 0x07] } ∧
    ((nextAnswer 0x27 s).getLsbD 7 = true →
      exec .configureRadio s = .next { s with
        radioMode := some 0x00, pmode := .sleep, t0 := nextReading s, pollK := 0, ok := true,
        rdata := nextAnswer 0x27 s, pinCs := true, busIn := (takeAnswer s).busIn, busDraws := (takeAnswer s).busDraws,
        timeIn := (takeReading s).timeIn, timeDraws := (takeReading s).timeDraws,
        trace := s.trace ++ [.busW 0x02 0x68, .busW 0x07 0x6C, .busW 0x08 0x7A, .busW 0x09 0xE1, .busW 0x03 0x25,
          .busW 0x04 0x80, .busW 0x11 0x5F, .busW 0x13 0x1A, .busW 0x26 0x07, .busW 0x01 0x00,
          .time (nextReading s), .busR 0x27 (nextAnswer 0x27 s)] })

/-! ### Configuration arithmetic and codes (42 R170 to R172; 10 R24, R28; 30 R96) -/

/-- 42 R170, R171: the two words of this hardware and their bytes. -/
def Obligations.ConfigurationWords : Prop :=
  freqWord Config.hw = 0x6C7AE1 ∧ bitrateWord Config.hw = 0x2580 ∧
  freqWrites Config.hw = [(0x07, 0x6C), (0x08, 0x7A), (0x09, 0xE1)] ∧
  bitrateWrites Config.hw = [(0x03, 0x25), (0x04, 0x80)] ∧
  ∀ cfg, freqWord cfg = cfg.fTargetHz * 524288 / cfg.fXtalHz ∧ bitrateWord cfg = cfg.fXtalHz / cfg.bitrateBps

/-- Big-endian order (20 R63): the bytes of a word that fits make the word up again, most significant byte first. -/
def Obligations.ConfigurationBytesAreBigEndian : Prop :=
  (∀ w : Nat, w < 2 ^ 24 → (byteOf w 2).toNat * 65536 + (byteOf w 1).toNat * 256 + (byteOf w 0).toNat = w) ∧
  (∀ w : Nat, w < 2 ^ 16 → (byteOf w 1).toNat * 256 + (byteOf w 0).toNat = w) ∧
  (∀ cfg, (freqWrites cfg).map Prod.snd = [byteOf (freqWord cfg) 2, byteOf (freqWord cfg) 1, byteOf (freqWord cfg) 0] ∧
    (freqWrites cfg).map Prod.fst = [cfg.regFrfMsb, cfg.regFrfMsb + 1, cfg.regFrfMsb + 2] ∧
    bitrateWrites cfg =
      [(cfg.regBitrateMsb, byteOf (bitrateWord cfg) 1), (cfg.regBitrateLsb, byteOf (bitrateWord cfg) 0)])

/-- 00 R8: a configuration that breaks a condition of the rule is refused, never truncated; one that is taken gives the reset
state; this hardware's is taken. Its converse has the model's extra conditions (log 20). -/
def Obligations.IllFormedConfigurationsAreRefused : Prop :=
  (∀ cfg,
    (0 < cfg.fXtalHz ∧ 0 < cfg.bitrateBps ∧ 0 < cfg.fTargetHz ∧ cfg.fTargetHz * 2 ^ 19 / cfg.fXtalHz < 2 ^ 24 ∧
      1 ≤ cfg.fXtalHz / cfg.bitrateBps ∧ cfg.fXtalHz / cfg.bitrateBps < 2 ^ 16 ∧ cfg.regFrfMsb.toNat + 2 ≤ 0x7F ∧
      0 < cfg.symbolUs ∧ 0 < cfg.gapUs ∧ 0 < cfg.timeoutUs ∧ 1 ≤ cfg.reps) ∧ construct cfg = .next State.reset ∨
    construct cfg = .refused .illFormedConfig) ∧
  construct Config.hw = .next State.reset ∧
  (∀ cfg,
    0 < cfg.fXtalHz ∧ 0 < cfg.bitrateBps ∧ 0 < cfg.fTargetHz ∧ cfg.fTargetHz * 2 ^ 19 / cfg.fXtalHz < 2 ^ 24 ∧
      1 ≤ cfg.fXtalHz / cfg.bitrateBps ∧ cfg.fXtalHz / cfg.bitrateBps < 2 ^ 16 ∧ cfg.regFrfMsb.toNat + 2 ≤ 0x7F ∧
      0 < cfg.symbolUs ∧ 0 < cfg.gapUs ∧ 0 < cfg.timeoutUs ∧ 1 ≤ cfg.reps →
    cfg.reps ≤ 8 → cfg.timeoutUs < 2 ^ 32 → 0 < cfg.tRstPulseUs → 0 < cfg.tRstWaitUs →
    construct cfg = .next State.reset)

/-- The codes of the outputs (10 R24, R25, R28), and the mode-ready bit (30 R96). -/
def Obligations.OutputCodes : Prop :=
  readinessCode .uninit = 0b00 ∧ readinessCode .ready = 0b01 ∧ readinessCode .faulted = 0b10 ∧
  errCode .none = 0 ∧ errCode .idMismatch = 1 ∧ errCode .timeoutStandby = 2 ∧ errCode .timeoutTransmit = 3 ∧
  errCode .timeoutSleep = 4 ∧ errCode .notReady = 5 ∧ errCode .unknownCmd = 6 ∧ (∀ e, errCode e ≠ 7) ∧
  (∀ s : State, readyOut s = true ↔ s.rstate = .ready) ∧ (∀ v : Byte, modeReady v = v.getLsbD 7)

/-! ### Invariants and whole-machine rules -/

/-- The invariant holds right after reset. -/
def Obligations.InvariantHoldsAtReset : Prop :=
  Inv Config.hw State.reset ∧ State.reset.issue = none ∧ Disciplined Config.hw State.reset

/-- Every instant keeps the invariant, whatever the host, the transceiver and the time base do, for every well-formed
configuration whose configuration writes leave REG_OPMODE alone. -/
def Obligations.InvariantKeptByEveryInstant : Prop :=
  ∀ cfg, configWf cfg = true → ownOpmode cfg = true → ∀ s, Inv cfg s → Inv cfg (tick cfg s)

/-- Every step keeps the invariant, on an engine whose register interface runs no frame but the sequencer's. -/
def Obligations.InvariantKeptByEveryStep : Prop :=
  ∀ s t, Inv Config.hw s → s.issue = none → step s = .next t → Inv Config.hw t ∧ t.issue = none

/-- 60 R220: the block has no trap. Every instruction answers a next state in every state, and so does every step from a
state of the invariant. -/
def Obligations.NothingTraps : Prop :=
  (∀ i s, ∃ t, exec i s = .next t) ∧ (∀ s, Inv Config.hw s → ∃ t, step s = .next t)

/-- 70 R260: every instant keeps the write-then-poll discipline, and a disciplined trace is not a broken one. -/
def Obligations.WriteThenPollIsNeverBroken : Prop :=
  (∀ cfg, configWf cfg = true → ownOpmode cfg = true → ∀ s, Inv cfg s → Disciplined cfg s → Disciplined cfg (tick cfg s)) ∧
  (∀ cfg s, Disciplined cfg s → pollOf cfg s.trace ≠ .broken)

/-- The only ways `rstate` changes (10 R26). In an instant (log 2): reset, step B13, or a time test (at the position `sub` of
log 15) whose reading, the one the law of log 7 allows, has timed out. Outside the instants of an operation: no acceptance
changes it, no step that runs a lone bus frame (log 5) does, and a step of an idle engine that changes it is a reset or the
instants of the operation it accepts. -/
def Obligations.ReadinessChangesInThreeWays : Prop :=
  (∀ cfg s, (tick cfg s).rstate ≠ s.rstate →
    (∃ rest, s.hostIn = .reset :: rest) ∧ (tick cfg s).rstate = .uninit ∨
    s.step = some .b13 ∧ (tick cfg s).rstate = .ready ∨
    (∃ m, entering cfg s.step = some m ∧ s.sub = .pollTest ∧ timedOut cfg s.t0 (testReading cfg s) = true ∧
      (tick cfg s).rstate = .faulted ∧ (tick cfg s).err = timeoutCode m)) ∧
  (∀ s t, s.issue = none → s.busy = false → step s = .next t → t.rstate ≠ s.rstate →
    (∃ rest, s.hostIn = .reset :: rest) ∧ t.rstate = .uninit ∨
    (∃ w rest a, s.hostIn = .word w :: rest ∧ decodeRequest w ∈ acceptedRequests ∧
      (a = acceptBegin (passInstant s) ∨ (∃ c, a = acceptSend c (passInstant s)) ∨ a = acceptStatus (passInstant s)) ∧
      a.rstate = s.rstate ∧ a.busy = true ∧ t = finish Config.hw a)) ∧
  (∀ s f t, s.issue = some f → step s = .next t → t.rstate = s.rstate)

/-- An instant appends at most one event, at the end of the trace. The instant is the model's unit (log 2); that events come
one after another is the order of 00 R12 and 20 R72. -/
def Obligations.AtMostOneEventPerInstant : Prop :=
  ∀ cfg s, ∃ es, (tick cfg s).trace = s.trace ++ es ∧ es.length ≤ 1

/-- 43 R195: an operation in progress, at whatever point, ends with exactly one event that is its Done or the Reset that
aborts it, as its last event, and leaves the engine idle. -/
def Obligations.EveryOperationEndsOnce : Prop :=
  ∀ cfg, configWf cfg = true → ∀ s, Inv cfg s → s.busy = true →
    ∃ es e, (finish cfg s).trace = s.trace ++ es ++ [e] ∧ (e = .reset ∨ ∃ b, e = .done s.op b) ∧
      (∀ x ∈ es, x ≠ .reset ∧ isDone x = false) ∧
      (finish cfg s).busy = false ∧ (finish cfg s).op = .none ∧ (finish cfg s).step = none
end

