-- ==== Sys2Proof/Laws/State.lean ====
section
/-! SUPPORT. What each update of the state does to each field, and each update as one record update. -/

namespace Sys2Proof.Machine

/-! ### emit -/

@[simp] theorem emit_rstate (e : Event) (s : State) : (emit e s).rstate = s.rstate := rfl
@[simp] theorem emit_busy (e : Event) (s : State) : (emit e s).busy = s.busy := rfl
@[simp] theorem emit_op (e : Event) (s : State) : (emit e s).op = s.op := rfl
@[simp] theorem emit_step (e : Event) (s : State) : (emit e s).step = s.step := rfl
@[simp] theorem emit_done (e : Event) (s : State) : (emit e s).done = s.done := rfl
@[simp] theorem emit_result (e : Event) (s : State) : (emit e s).result = s.result := rfl
@[simp] theorem emit_err (e : Event) (s : State) : (emit e s).err = s.err := rfl
@[simp] theorem emit_idSeen (e : Event) (s : State) : (emit e s).idSeen = s.idSeen := rfl
@[simp] theorem emit_cmd (e : Event) (s : State) : (emit e s).cmd = s.cmd := rfl
@[simp] theorem emit_fbuf (e : Event) (s : State) : (emit e s).fbuf = s.fbuf := rfl
@[simp] theorem emit_rep (e : Event) (s : State) : (emit e s).rep = s.rep := rfl
@[simp] theorem emit_idx (e : Event) (s : State) : (emit e s).idx = s.idx := rfl
@[simp] theorem emit_t0 (e : Event) (s : State) : (emit e s).t0 = s.t0 := rfl
@[simp] theorem emit_pmode (e : Event) (s : State) : (emit e s).pmode = s.pmode := rfl
@[simp] theorem emit_radioMode (e : Event) (s : State) : (emit e s).radioMode = s.radioMode := rfl
@[simp] theorem emit_pinCs (e : Event) (s : State) : (emit e s).pinCs = s.pinCs := rfl
@[simp] theorem emit_pinReset (e : Event) (s : State) : (emit e s).pinReset = s.pinReset := rfl
@[simp] theorem emit_pinData (e : Event) (s : State) : (emit e s).pinData = s.pinData := rfl
@[simp] theorem emit_irq (e : Event) (s : State) : (emit e s).irq = s.irq := rfl
@[simp] theorem emit_trace (e : Event) (s : State) : (emit e s).trace = s.trace ++ [e] := rfl
@[simp] theorem emit_sub (e : Event) (s : State) : (emit e s).sub = s.sub := rfl
@[simp] theorem emit_pollK (e : Event) (s : State) : (emit e s).pollK = s.pollK := rfl
@[simp] theorem emit_r (e : Event) (s : State) : (emit e s).r = s.r := rfl
@[simp] theorem emit_ok (e : Event) (s : State) : (emit e s).ok = s.ok := rfl
@[simp] theorem emit_rdata (e : Event) (s : State) : (emit e s).rdata = s.rdata := rfl
@[simp] theorem emit_lookup (e : Event) (s : State) : (emit e s).lookup = s.lookup := rfl
@[simp] theorem emit_built (e : Event) (s : State) : (emit e s).built = s.built := rfl
@[simp] theorem emit_hostIn (e : Event) (s : State) : (emit e s).hostIn = s.hostIn := rfl
@[simp] theorem emit_issue (e : Event) (s : State) : (emit e s).issue = s.issue := rfl
@[simp] theorem emit_busIn (e : Event) (s : State) : (emit e s).busIn = s.busIn := rfl
@[simp] theorem emit_busDraws (e : Event) (s : State) : (emit e s).busDraws = s.busDraws := rfl
@[simp] theorem emit_timeIn (e : Event) (s : State) : (emit e s).timeIn = s.timeIn := rfl
@[simp] theorem emit_timeDraws (e : Event) (s : State) : (emit e s).timeDraws = s.timeDraws := rfl

/-! ### hold -/

@[simp] theorem hold_rstate (us : Nat) (s : State) : (hold us s).rstate = s.rstate := rfl
@[simp] theorem hold_busy (us : Nat) (s : State) : (hold us s).busy = s.busy := rfl
@[simp] theorem hold_op (us : Nat) (s : State) : (hold us s).op = s.op := rfl
@[simp] theorem hold_step (us : Nat) (s : State) : (hold us s).step = s.step := rfl
@[simp] theorem hold_done (us : Nat) (s : State) : (hold us s).done = s.done := rfl
@[simp] theorem hold_result (us : Nat) (s : State) : (hold us s).result = s.result := rfl
@[simp] theorem hold_err (us : Nat) (s : State) : (hold us s).err = s.err := rfl
@[simp] theorem hold_idSeen (us : Nat) (s : State) : (hold us s).idSeen = s.idSeen := rfl
@[simp] theorem hold_cmd (us : Nat) (s : State) : (hold us s).cmd = s.cmd := rfl
@[simp] theorem hold_fbuf (us : Nat) (s : State) : (hold us s).fbuf = s.fbuf := rfl
@[simp] theorem hold_rep (us : Nat) (s : State) : (hold us s).rep = s.rep := rfl
@[simp] theorem hold_idx (us : Nat) (s : State) : (hold us s).idx = s.idx := rfl
@[simp] theorem hold_t0 (us : Nat) (s : State) : (hold us s).t0 = s.t0 := rfl
@[simp] theorem hold_pmode (us : Nat) (s : State) : (hold us s).pmode = s.pmode := rfl
@[simp] theorem hold_radioMode (us : Nat) (s : State) : (hold us s).radioMode = s.radioMode := rfl
@[simp] theorem hold_pinCs (us : Nat) (s : State) : (hold us s).pinCs = s.pinCs := rfl
@[simp] theorem hold_pinReset (us : Nat) (s : State) : (hold us s).pinReset = s.pinReset := rfl
@[simp] theorem hold_pinData (us : Nat) (s : State) : (hold us s).pinData = s.pinData := rfl
@[simp] theorem hold_irq (us : Nat) (s : State) : (hold us s).irq = s.irq := rfl
@[simp] theorem hold_trace (us : Nat) (s : State) : (hold us s).trace = s.trace ++ [.hold us] := rfl
@[simp] theorem hold_sub (us : Nat) (s : State) : (hold us s).sub = s.sub := rfl
@[simp] theorem hold_pollK (us : Nat) (s : State) : (hold us s).pollK = s.pollK := rfl
@[simp] theorem hold_r (us : Nat) (s : State) : (hold us s).r = s.r := rfl
@[simp] theorem hold_ok (us : Nat) (s : State) : (hold us s).ok = s.ok := rfl
@[simp] theorem hold_rdata (us : Nat) (s : State) : (hold us s).rdata = s.rdata := rfl
@[simp] theorem hold_lookup (us : Nat) (s : State) : (hold us s).lookup = s.lookup := rfl
@[simp] theorem hold_built (us : Nat) (s : State) : (hold us s).built = s.built := rfl
@[simp] theorem hold_hostIn (us : Nat) (s : State) : (hold us s).hostIn = s.hostIn := rfl
@[simp] theorem hold_issue (us : Nat) (s : State) : (hold us s).issue = s.issue := rfl
@[simp] theorem hold_busIn (us : Nat) (s : State) : (hold us s).busIn = s.busIn := rfl
@[simp] theorem hold_busDraws (us : Nat) (s : State) : (hold us s).busDraws = s.busDraws := rfl
@[simp] theorem hold_timeIn (us : Nat) (s : State) : (hold us s).timeIn = s.timeIn := rfl
@[simp] theorem hold_timeDraws (us : Nat) (s : State) : (hold us s).timeDraws = s.timeDraws := rfl

/-! ### csAssert -/

@[simp] theorem csAssert_rstate (s : State) : (csAssert s).rstate = s.rstate := rfl
@[simp] theorem csAssert_busy (s : State) : (csAssert s).busy = s.busy := rfl
@[simp] theorem csAssert_op (s : State) : (csAssert s).op = s.op := rfl
@[simp] theorem csAssert_step (s : State) : (csAssert s).step = s.step := rfl
@[simp] theorem csAssert_done (s : State) : (csAssert s).done = s.done := rfl
@[simp] theorem csAssert_result (s : State) : (csAssert s).result = s.result := rfl
@[simp] theorem csAssert_err (s : State) : (csAssert s).err = s.err := rfl
@[simp] theorem csAssert_idSeen (s : State) : (csAssert s).idSeen = s.idSeen := rfl
@[simp] theorem csAssert_cmd (s : State) : (csAssert s).cmd = s.cmd := rfl
@[simp] theorem csAssert_fbuf (s : State) : (csAssert s).fbuf = s.fbuf := rfl
@[simp] theorem csAssert_rep (s : State) : (csAssert s).rep = s.rep := rfl
@[simp] theorem csAssert_idx (s : State) : (csAssert s).idx = s.idx := rfl
@[simp] theorem csAssert_t0 (s : State) : (csAssert s).t0 = s.t0 := rfl
@[simp] theorem csAssert_pmode (s : State) : (csAssert s).pmode = s.pmode := rfl
@[simp] theorem csAssert_radioMode (s : State) : (csAssert s).radioMode = s.radioMode := rfl
@[simp] theorem csAssert_pinCs (s : State) : (csAssert s).pinCs = false := rfl
@[simp] theorem csAssert_pinReset (s : State) : (csAssert s).pinReset = s.pinReset := rfl
@[simp] theorem csAssert_pinData (s : State) : (csAssert s).pinData = s.pinData := rfl
@[simp] theorem csAssert_irq (s : State) : (csAssert s).irq = s.irq := rfl
@[simp] theorem csAssert_trace (s : State) : (csAssert s).trace = s.trace := rfl
@[simp] theorem csAssert_sub (s : State) : (csAssert s).sub = s.sub := rfl
@[simp] theorem csAssert_pollK (s : State) : (csAssert s).pollK = s.pollK := rfl
@[simp] theorem csAssert_r (s : State) : (csAssert s).r = s.r := rfl
@[simp] theorem csAssert_ok (s : State) : (csAssert s).ok = s.ok := rfl
@[simp] theorem csAssert_rdata (s : State) : (csAssert s).rdata = s.rdata := rfl
@[simp] theorem csAssert_lookup (s : State) : (csAssert s).lookup = s.lookup := rfl
@[simp] theorem csAssert_built (s : State) : (csAssert s).built = s.built := rfl
@[simp] theorem csAssert_hostIn (s : State) : (csAssert s).hostIn = s.hostIn := rfl
@[simp] theorem csAssert_issue (s : State) : (csAssert s).issue = s.issue := rfl
@[simp] theorem csAssert_busIn (s : State) : (csAssert s).busIn = s.busIn := rfl
@[simp] theorem csAssert_busDraws (s : State) : (csAssert s).busDraws = s.busDraws := rfl
@[simp] theorem csAssert_timeIn (s : State) : (csAssert s).timeIn = s.timeIn := rfl
@[simp] theorem csAssert_timeDraws (s : State) : (csAssert s).timeDraws = s.timeDraws := rfl

/-! ### goto -/

@[simp] theorem goto_rstate (st : Step) (u : Sub) (s : State) : (goto st u s).rstate = s.rstate := rfl
@[simp] theorem goto_busy (st : Step) (u : Sub) (s : State) : (goto st u s).busy = s.busy := rfl
@[simp] theorem goto_op (st : Step) (u : Sub) (s : State) : (goto st u s).op = s.op := rfl
@[simp] theorem goto_step (st : Step) (u : Sub) (s : State) : (goto st u s).step = some st := rfl
@[simp] theorem goto_done (st : Step) (u : Sub) (s : State) : (goto st u s).done = s.done := rfl
@[simp] theorem goto_result (st : Step) (u : Sub) (s : State) : (goto st u s).result = s.result := rfl
@[simp] theorem goto_err (st : Step) (u : Sub) (s : State) : (goto st u s).err = s.err := rfl
@[simp] theorem goto_idSeen (st : Step) (u : Sub) (s : State) : (goto st u s).idSeen = s.idSeen := rfl
@[simp] theorem goto_cmd (st : Step) (u : Sub) (s : State) : (goto st u s).cmd = s.cmd := rfl
@[simp] theorem goto_fbuf (st : Step) (u : Sub) (s : State) : (goto st u s).fbuf = s.fbuf := rfl
@[simp] theorem goto_rep (st : Step) (u : Sub) (s : State) : (goto st u s).rep = s.rep := rfl
@[simp] theorem goto_idx (st : Step) (u : Sub) (s : State) : (goto st u s).idx = s.idx := rfl
@[simp] theorem goto_t0 (st : Step) (u : Sub) (s : State) : (goto st u s).t0 = s.t0 := rfl
@[simp] theorem goto_pmode (st : Step) (u : Sub) (s : State) : (goto st u s).pmode = s.pmode := rfl
@[simp] theorem goto_radioMode (st : Step) (u : Sub) (s : State) : (goto st u s).radioMode = s.radioMode := rfl
@[simp] theorem goto_pinCs (st : Step) (u : Sub) (s : State) : (goto st u s).pinCs = s.pinCs := rfl
@[simp] theorem goto_pinReset (st : Step) (u : Sub) (s : State) : (goto st u s).pinReset = s.pinReset := rfl
@[simp] theorem goto_pinData (st : Step) (u : Sub) (s : State) : (goto st u s).pinData = s.pinData := rfl
@[simp] theorem goto_irq (st : Step) (u : Sub) (s : State) : (goto st u s).irq = s.irq := rfl
@[simp] theorem goto_trace (st : Step) (u : Sub) (s : State) : (goto st u s).trace = s.trace := rfl
@[simp] theorem goto_sub (st : Step) (u : Sub) (s : State) : (goto st u s).sub = u := rfl
@[simp] theorem goto_pollK (st : Step) (u : Sub) (s : State) : (goto st u s).pollK = s.pollK := rfl
@[simp] theorem goto_r (st : Step) (u : Sub) (s : State) : (goto st u s).r = s.r := rfl
@[simp] theorem goto_ok (st : Step) (u : Sub) (s : State) : (goto st u s).ok = s.ok := rfl
@[simp] theorem goto_rdata (st : Step) (u : Sub) (s : State) : (goto st u s).rdata = s.rdata := rfl
@[simp] theorem goto_lookup (st : Step) (u : Sub) (s : State) : (goto st u s).lookup = s.lookup := rfl
@[simp] theorem goto_built (st : Step) (u : Sub) (s : State) : (goto st u s).built = s.built := rfl
@[simp] theorem goto_hostIn (st : Step) (u : Sub) (s : State) : (goto st u s).hostIn = s.hostIn := rfl
@[simp] theorem goto_issue (st : Step) (u : Sub) (s : State) : (goto st u s).issue = s.issue := rfl
@[simp] theorem goto_busIn (st : Step) (u : Sub) (s : State) : (goto st u s).busIn = s.busIn := rfl
@[simp] theorem goto_busDraws (st : Step) (u : Sub) (s : State) : (goto st u s).busDraws = s.busDraws := rfl
@[simp] theorem goto_timeIn (st : Step) (u : Sub) (s : State) : (goto st u s).timeIn = s.timeIn := rfl
@[simp] theorem goto_timeDraws (st : Step) (u : Sub) (s : State) : (goto st u s).timeDraws = s.timeDraws := rfl

/-! ### passInstant -/

@[simp] theorem passInstant_rstate (s : State) : (passInstant s).rstate = s.rstate := rfl
@[simp] theorem passInstant_busy (s : State) : (passInstant s).busy = s.busy := rfl
@[simp] theorem passInstant_op (s : State) : (passInstant s).op = s.op := rfl
@[simp] theorem passInstant_step (s : State) : (passInstant s).step = s.step := rfl
@[simp] theorem passInstant_done (s : State) : (passInstant s).done = false := rfl
@[simp] theorem passInstant_result (s : State) : (passInstant s).result = s.result := rfl
@[simp] theorem passInstant_err (s : State) : (passInstant s).err = s.err := rfl
@[simp] theorem passInstant_idSeen (s : State) : (passInstant s).idSeen = s.idSeen := rfl
@[simp] theorem passInstant_cmd (s : State) : (passInstant s).cmd = s.cmd := rfl
@[simp] theorem passInstant_fbuf (s : State) : (passInstant s).fbuf = s.fbuf := rfl
@[simp] theorem passInstant_rep (s : State) : (passInstant s).rep = s.rep := rfl
@[simp] theorem passInstant_idx (s : State) : (passInstant s).idx = s.idx := rfl
@[simp] theorem passInstant_t0 (s : State) : (passInstant s).t0 = s.t0 := rfl
@[simp] theorem passInstant_pmode (s : State) : (passInstant s).pmode = s.pmode := rfl
@[simp] theorem passInstant_radioMode (s : State) : (passInstant s).radioMode = s.radioMode := rfl
@[simp] theorem passInstant_pinCs (s : State) : (passInstant s).pinCs = s.pinCs := rfl
@[simp] theorem passInstant_pinReset (s : State) : (passInstant s).pinReset = s.pinReset := rfl
@[simp] theorem passInstant_pinData (s : State) : (passInstant s).pinData = s.pinData := rfl
@[simp] theorem passInstant_irq (s : State) : (passInstant s).irq = s.irq := rfl
@[simp] theorem passInstant_trace (s : State) : (passInstant s).trace = s.trace := rfl
@[simp] theorem passInstant_sub (s : State) : (passInstant s).sub = s.sub := rfl
@[simp] theorem passInstant_pollK (s : State) : (passInstant s).pollK = s.pollK := rfl
@[simp] theorem passInstant_r (s : State) : (passInstant s).r = s.r := rfl
@[simp] theorem passInstant_ok (s : State) : (passInstant s).ok = s.ok := rfl
@[simp] theorem passInstant_rdata (s : State) : (passInstant s).rdata = s.rdata := rfl
@[simp] theorem passInstant_lookup (s : State) : (passInstant s).lookup = s.lookup := rfl
@[simp] theorem passInstant_built (s : State) : (passInstant s).built = s.built := rfl
@[simp] theorem passInstant_hostIn (s : State) : (passInstant s).hostIn = s.hostIn.tail := rfl
@[simp] theorem passInstant_issue (s : State) : (passInstant s).issue = s.issue := rfl
@[simp] theorem passInstant_busIn (s : State) : (passInstant s).busIn = s.busIn := rfl
@[simp] theorem passInstant_busDraws (s : State) : (passInstant s).busDraws = s.busDraws := rfl
@[simp] theorem passInstant_timeIn (s : State) : (passInstant s).timeIn = s.timeIn := rfl
@[simp] theorem passInstant_timeDraws (s : State) : (passInstant s).timeDraws = s.timeDraws := rfl

/-! ### pollOk -/

@[simp] theorem pollOk_rstate (s : State) : (pollOk s).rstate = s.rstate := rfl
@[simp] theorem pollOk_busy (s : State) : (pollOk s).busy = s.busy := rfl
@[simp] theorem pollOk_op (s : State) : (pollOk s).op = s.op := rfl
@[simp] theorem pollOk_step (s : State) : (pollOk s).step = s.step := rfl
@[simp] theorem pollOk_done (s : State) : (pollOk s).done = s.done := rfl
@[simp] theorem pollOk_result (s : State) : (pollOk s).result = s.result := rfl
@[simp] theorem pollOk_err (s : State) : (pollOk s).err = s.err := rfl
@[simp] theorem pollOk_idSeen (s : State) : (pollOk s).idSeen = s.idSeen := rfl
@[simp] theorem pollOk_cmd (s : State) : (pollOk s).cmd = s.cmd := rfl
@[simp] theorem pollOk_fbuf (s : State) : (pollOk s).fbuf = s.fbuf := rfl
@[simp] theorem pollOk_rep (s : State) : (pollOk s).rep = s.rep := rfl
@[simp] theorem pollOk_idx (s : State) : (pollOk s).idx = s.idx := rfl
@[simp] theorem pollOk_t0 (s : State) : (pollOk s).t0 = s.t0 := rfl
@[simp] theorem pollOk_pmode (s : State) : (pollOk s).pmode = s.pmode := rfl
@[simp] theorem pollOk_radioMode (s : State) : (pollOk s).radioMode = s.radioMode := rfl
@[simp] theorem pollOk_pinCs (s : State) : (pollOk s).pinCs = s.pinCs := rfl
@[simp] theorem pollOk_pinReset (s : State) : (pollOk s).pinReset = s.pinReset := rfl
@[simp] theorem pollOk_pinData (s : State) : (pollOk s).pinData = s.pinData := rfl
@[simp] theorem pollOk_irq (s : State) : (pollOk s).irq = s.irq := rfl
@[simp] theorem pollOk_trace (s : State) : (pollOk s).trace = s.trace := rfl
@[simp] theorem pollOk_sub (s : State) : (pollOk s).sub = s.sub := rfl
@[simp] theorem pollOk_pollK (s : State) : (pollOk s).pollK = s.pollK := rfl
@[simp] theorem pollOk_r (s : State) : (pollOk s).r = s.r := rfl
@[simp] theorem pollOk_ok (s : State) : (pollOk s).ok = true := rfl
@[simp] theorem pollOk_rdata (s : State) : (pollOk s).rdata = s.rdata := rfl
@[simp] theorem pollOk_lookup (s : State) : (pollOk s).lookup = s.lookup := rfl
@[simp] theorem pollOk_built (s : State) : (pollOk s).built = s.built := rfl
@[simp] theorem pollOk_hostIn (s : State) : (pollOk s).hostIn = s.hostIn := rfl
@[simp] theorem pollOk_issue (s : State) : (pollOk s).issue = s.issue := rfl
@[simp] theorem pollOk_busIn (s : State) : (pollOk s).busIn = s.busIn := rfl
@[simp] theorem pollOk_busDraws (s : State) : (pollOk s).busDraws = s.busDraws := rfl
@[simp] theorem pollOk_timeIn (s : State) : (pollOk s).timeIn = s.timeIn := rfl
@[simp] theorem pollOk_timeDraws (s : State) : (pollOk s).timeDraws = s.timeDraws := rfl

/-! ### pollFail -/

@[simp] theorem pollFail_rstate (m : Mode) (s : State) : (pollFail m s).rstate = .faulted := rfl
@[simp] theorem pollFail_busy (m : Mode) (s : State) : (pollFail m s).busy = s.busy := rfl
@[simp] theorem pollFail_op (m : Mode) (s : State) : (pollFail m s).op = s.op := rfl
@[simp] theorem pollFail_step (m : Mode) (s : State) : (pollFail m s).step = s.step := rfl
@[simp] theorem pollFail_done (m : Mode) (s : State) : (pollFail m s).done = s.done := rfl
@[simp] theorem pollFail_result (m : Mode) (s : State) : (pollFail m s).result = s.result := rfl
@[simp] theorem pollFail_err (m : Mode) (s : State) : (pollFail m s).err = timeoutCode m := rfl
@[simp] theorem pollFail_idSeen (m : Mode) (s : State) : (pollFail m s).idSeen = s.idSeen := rfl
@[simp] theorem pollFail_cmd (m : Mode) (s : State) : (pollFail m s).cmd = s.cmd := rfl
@[simp] theorem pollFail_fbuf (m : Mode) (s : State) : (pollFail m s).fbuf = s.fbuf := rfl
@[simp] theorem pollFail_rep (m : Mode) (s : State) : (pollFail m s).rep = s.rep := rfl
@[simp] theorem pollFail_idx (m : Mode) (s : State) : (pollFail m s).idx = s.idx := rfl
@[simp] theorem pollFail_t0 (m : Mode) (s : State) : (pollFail m s).t0 = s.t0 := rfl
@[simp] theorem pollFail_pmode (m : Mode) (s : State) : (pollFail m s).pmode = s.pmode := rfl
@[simp] theorem pollFail_radioMode (m : Mode) (s : State) : (pollFail m s).radioMode = s.radioMode := rfl
@[simp] theorem pollFail_pinCs (m : Mode) (s : State) : (pollFail m s).pinCs = s.pinCs := rfl
@[simp] theorem pollFail_pinReset (m : Mode) (s : State) : (pollFail m s).pinReset = s.pinReset := rfl
@[simp] theorem pollFail_pinData (m : Mode) (s : State) : (pollFail m s).pinData = s.pinData := rfl
@[simp] theorem pollFail_irq (m : Mode) (s : State) : (pollFail m s).irq = s.irq := rfl
@[simp] theorem pollFail_trace (m : Mode) (s : State) : (pollFail m s).trace = s.trace := rfl
@[simp] theorem pollFail_sub (m : Mode) (s : State) : (pollFail m s).sub = s.sub := rfl
@[simp] theorem pollFail_pollK (m : Mode) (s : State) : (pollFail m s).pollK = s.pollK := rfl
@[simp] theorem pollFail_r (m : Mode) (s : State) : (pollFail m s).r = s.r := rfl
@[simp] theorem pollFail_ok (m : Mode) (s : State) : (pollFail m s).ok = false := rfl
@[simp] theorem pollFail_rdata (m : Mode) (s : State) : (pollFail m s).rdata = s.rdata := rfl
@[simp] theorem pollFail_lookup (m : Mode) (s : State) : (pollFail m s).lookup = s.lookup := rfl
@[simp] theorem pollFail_built (m : Mode) (s : State) : (pollFail m s).built = s.built := rfl
@[simp] theorem pollFail_hostIn (m : Mode) (s : State) : (pollFail m s).hostIn = s.hostIn := rfl
@[simp] theorem pollFail_issue (m : Mode) (s : State) : (pollFail m s).issue = s.issue := rfl
@[simp] theorem pollFail_busIn (m : Mode) (s : State) : (pollFail m s).busIn = s.busIn := rfl
@[simp] theorem pollFail_busDraws (m : Mode) (s : State) : (pollFail m s).busDraws = s.busDraws := rfl
@[simp] theorem pollFail_timeIn (m : Mode) (s : State) : (pollFail m s).timeIn = s.timeIn := rfl
@[simp] theorem pollFail_timeDraws (m : Mode) (s : State) : (pollFail m s).timeDraws = s.timeDraws := rfl

/-! ### complete -/

@[simp] theorem complete_rstate (r : Bool) (s : State) : (complete r s).rstate = s.rstate := rfl
@[simp] theorem complete_busy (r : Bool) (s : State) : (complete r s).busy = false := rfl
@[simp] theorem complete_op (r : Bool) (s : State) : (complete r s).op = .none := rfl
@[simp] theorem complete_step (r : Bool) (s : State) : (complete r s).step = none := rfl
@[simp] theorem complete_done (r : Bool) (s : State) : (complete r s).done = true := rfl
@[simp] theorem complete_result (r : Bool) (s : State) : (complete r s).result = r := rfl
@[simp] theorem complete_err (r : Bool) (s : State) : (complete r s).err = s.err := rfl
@[simp] theorem complete_idSeen (r : Bool) (s : State) : (complete r s).idSeen = s.idSeen := rfl
@[simp] theorem complete_cmd (r : Bool) (s : State) : (complete r s).cmd = s.cmd := rfl
@[simp] theorem complete_fbuf (r : Bool) (s : State) : (complete r s).fbuf = s.fbuf := rfl
@[simp] theorem complete_rep (r : Bool) (s : State) : (complete r s).rep = s.rep := rfl
@[simp] theorem complete_idx (r : Bool) (s : State) : (complete r s).idx = s.idx := rfl
@[simp] theorem complete_t0 (r : Bool) (s : State) : (complete r s).t0 = s.t0 := rfl
@[simp] theorem complete_pmode (r : Bool) (s : State) : (complete r s).pmode = s.pmode := rfl
@[simp] theorem complete_radioMode (r : Bool) (s : State) : (complete r s).radioMode = s.radioMode := rfl
@[simp] theorem complete_pinCs (r : Bool) (s : State) : (complete r s).pinCs = s.pinCs := rfl
@[simp] theorem complete_pinReset (r : Bool) (s : State) : (complete r s).pinReset = s.pinReset := rfl
@[simp] theorem complete_pinData (r : Bool) (s : State) : (complete r s).pinData = s.pinData := rfl
@[simp] theorem complete_irq (r : Bool) (s : State) : (complete r s).irq = s.irq := rfl
@[simp] theorem complete_trace (r : Bool) (s : State) : (complete r s).trace = s.trace ++ [.done s.op r] := rfl
@[simp] theorem complete_sub (r : Bool) (s : State) : (complete r s).sub = .item 0 := rfl
@[simp] theorem complete_pollK (r : Bool) (s : State) : (complete r s).pollK = s.pollK := rfl
@[simp] theorem complete_r (r : Bool) (s : State) : (complete r s).r = s.r := rfl
@[simp] theorem complete_ok (r : Bool) (s : State) : (complete r s).ok = s.ok := rfl
@[simp] theorem complete_rdata (r : Bool) (s : State) : (complete r s).rdata = s.rdata := rfl
@[simp] theorem complete_lookup (r : Bool) (s : State) : (complete r s).lookup = s.lookup := rfl
@[simp] theorem complete_built (r : Bool) (s : State) : (complete r s).built = s.built := rfl
@[simp] theorem complete_hostIn (r : Bool) (s : State) : (complete r s).hostIn = s.hostIn := rfl
@[simp] theorem complete_issue (r : Bool) (s : State) : (complete r s).issue = s.issue := rfl
@[simp] theorem complete_busIn (r : Bool) (s : State) : (complete r s).busIn = s.busIn := rfl
@[simp] theorem complete_busDraws (r : Bool) (s : State) : (complete r s).busDraws = s.busDraws := rfl
@[simp] theorem complete_timeIn (r : Bool) (s : State) : (complete r s).timeIn = s.timeIn := rfl
@[simp] theorem complete_timeDraws (r : Bool) (s : State) : (complete r s).timeDraws = s.timeDraws := rfl

/-! ### setErr -/

@[simp] theorem setErr_rstate (e : ErrCode) (s : State) : (setErr e s).rstate = s.rstate := rfl
@[simp] theorem setErr_busy (e : ErrCode) (s : State) : (setErr e s).busy = s.busy := rfl
@[simp] theorem setErr_op (e : ErrCode) (s : State) : (setErr e s).op = s.op := rfl
@[simp] theorem setErr_step (e : ErrCode) (s : State) : (setErr e s).step = s.step := rfl
@[simp] theorem setErr_done (e : ErrCode) (s : State) : (setErr e s).done = s.done := rfl
@[simp] theorem setErr_result (e : ErrCode) (s : State) : (setErr e s).result = s.result := rfl
@[simp] theorem setErr_err (e : ErrCode) (s : State) : (setErr e s).err = e := rfl
@[simp] theorem setErr_idSeen (e : ErrCode) (s : State) : (setErr e s).idSeen = s.idSeen := rfl
@[simp] theorem setErr_cmd (e : ErrCode) (s : State) : (setErr e s).cmd = s.cmd := rfl
@[simp] theorem setErr_fbuf (e : ErrCode) (s : State) : (setErr e s).fbuf = s.fbuf := rfl
@[simp] theorem setErr_rep (e : ErrCode) (s : State) : (setErr e s).rep = s.rep := rfl
@[simp] theorem setErr_idx (e : ErrCode) (s : State) : (setErr e s).idx = s.idx := rfl
@[simp] theorem setErr_t0 (e : ErrCode) (s : State) : (setErr e s).t0 = s.t0 := rfl
@[simp] theorem setErr_pmode (e : ErrCode) (s : State) : (setErr e s).pmode = s.pmode := rfl
@[simp] theorem setErr_radioMode (e : ErrCode) (s : State) : (setErr e s).radioMode = s.radioMode := rfl
@[simp] theorem setErr_pinCs (e : ErrCode) (s : State) : (setErr e s).pinCs = s.pinCs := rfl
@[simp] theorem setErr_pinReset (e : ErrCode) (s : State) : (setErr e s).pinReset = s.pinReset := rfl
@[simp] theorem setErr_pinData (e : ErrCode) (s : State) : (setErr e s).pinData = s.pinData := rfl
@[simp] theorem setErr_irq (e : ErrCode) (s : State) : (setErr e s).irq = s.irq := rfl
@[simp] theorem setErr_trace (e : ErrCode) (s : State) : (setErr e s).trace = s.trace := rfl
@[simp] theorem setErr_sub (e : ErrCode) (s : State) : (setErr e s).sub = s.sub := rfl
@[simp] theorem setErr_pollK (e : ErrCode) (s : State) : (setErr e s).pollK = s.pollK := rfl
@[simp] theorem setErr_r (e : ErrCode) (s : State) : (setErr e s).r = s.r := rfl
@[simp] theorem setErr_ok (e : ErrCode) (s : State) : (setErr e s).ok = s.ok := rfl
@[simp] theorem setErr_rdata (e : ErrCode) (s : State) : (setErr e s).rdata = s.rdata := rfl
@[simp] theorem setErr_lookup (e : ErrCode) (s : State) : (setErr e s).lookup = s.lookup := rfl
@[simp] theorem setErr_built (e : ErrCode) (s : State) : (setErr e s).built = s.built := rfl
@[simp] theorem setErr_hostIn (e : ErrCode) (s : State) : (setErr e s).hostIn = s.hostIn := rfl
@[simp] theorem setErr_issue (e : ErrCode) (s : State) : (setErr e s).issue = s.issue := rfl
@[simp] theorem setErr_busIn (e : ErrCode) (s : State) : (setErr e s).busIn = s.busIn := rfl
@[simp] theorem setErr_busDraws (e : ErrCode) (s : State) : (setErr e s).busDraws = s.busDraws := rfl
@[simp] theorem setErr_timeIn (e : ErrCode) (s : State) : (setErr e s).timeIn = s.timeIn := rfl
@[simp] theorem setErr_timeDraws (e : ErrCode) (s : State) : (setErr e s).timeDraws = s.timeDraws := rfl

/-! ### setRstate -/

@[simp] theorem setRstate_rstate (x : Readiness) (s : State) : (setRstate x s).rstate = x := rfl
@[simp] theorem setRstate_busy (x : Readiness) (s : State) : (setRstate x s).busy = s.busy := rfl
@[simp] theorem setRstate_op (x : Readiness) (s : State) : (setRstate x s).op = s.op := rfl
@[simp] theorem setRstate_step (x : Readiness) (s : State) : (setRstate x s).step = s.step := rfl
@[simp] theorem setRstate_done (x : Readiness) (s : State) : (setRstate x s).done = s.done := rfl
@[simp] theorem setRstate_result (x : Readiness) (s : State) : (setRstate x s).result = s.result := rfl
@[simp] theorem setRstate_err (x : Readiness) (s : State) : (setRstate x s).err = s.err := rfl
@[simp] theorem setRstate_idSeen (x : Readiness) (s : State) : (setRstate x s).idSeen = s.idSeen := rfl
@[simp] theorem setRstate_cmd (x : Readiness) (s : State) : (setRstate x s).cmd = s.cmd := rfl
@[simp] theorem setRstate_fbuf (x : Readiness) (s : State) : (setRstate x s).fbuf = s.fbuf := rfl
@[simp] theorem setRstate_rep (x : Readiness) (s : State) : (setRstate x s).rep = s.rep := rfl
@[simp] theorem setRstate_idx (x : Readiness) (s : State) : (setRstate x s).idx = s.idx := rfl
@[simp] theorem setRstate_t0 (x : Readiness) (s : State) : (setRstate x s).t0 = s.t0 := rfl
@[simp] theorem setRstate_pmode (x : Readiness) (s : State) : (setRstate x s).pmode = s.pmode := rfl
@[simp] theorem setRstate_radioMode (x : Readiness) (s : State) : (setRstate x s).radioMode = s.radioMode := rfl
@[simp] theorem setRstate_pinCs (x : Readiness) (s : State) : (setRstate x s).pinCs = s.pinCs := rfl
@[simp] theorem setRstate_pinReset (x : Readiness) (s : State) : (setRstate x s).pinReset = s.pinReset := rfl
@[simp] theorem setRstate_pinData (x : Readiness) (s : State) : (setRstate x s).pinData = s.pinData := rfl
@[simp] theorem setRstate_irq (x : Readiness) (s : State) : (setRstate x s).irq = s.irq := rfl
@[simp] theorem setRstate_trace (x : Readiness) (s : State) : (setRstate x s).trace = s.trace := rfl
@[simp] theorem setRstate_sub (x : Readiness) (s : State) : (setRstate x s).sub = s.sub := rfl
@[simp] theorem setRstate_pollK (x : Readiness) (s : State) : (setRstate x s).pollK = s.pollK := rfl
@[simp] theorem setRstate_r (x : Readiness) (s : State) : (setRstate x s).r = s.r := rfl
@[simp] theorem setRstate_ok (x : Readiness) (s : State) : (setRstate x s).ok = s.ok := rfl
@[simp] theorem setRstate_rdata (x : Readiness) (s : State) : (setRstate x s).rdata = s.rdata := rfl
@[simp] theorem setRstate_lookup (x : Readiness) (s : State) : (setRstate x s).lookup = s.lookup := rfl
@[simp] theorem setRstate_built (x : Readiness) (s : State) : (setRstate x s).built = s.built := rfl
@[simp] theorem setRstate_hostIn (x : Readiness) (s : State) : (setRstate x s).hostIn = s.hostIn := rfl
@[simp] theorem setRstate_issue (x : Readiness) (s : State) : (setRstate x s).issue = s.issue := rfl
@[simp] theorem setRstate_busIn (x : Readiness) (s : State) : (setRstate x s).busIn = s.busIn := rfl
@[simp] theorem setRstate_busDraws (x : Readiness) (s : State) : (setRstate x s).busDraws = s.busDraws := rfl
@[simp] theorem setRstate_timeIn (x : Readiness) (s : State) : (setRstate x s).timeIn = s.timeIn := rfl
@[simp] theorem setRstate_timeDraws (x : Readiness) (s : State) : (setRstate x s).timeDraws = s.timeDraws := rfl

/-! ### setR -/

@[simp] theorem setR_rstate (b : Bool) (s : State) : (setR b s).rstate = s.rstate := rfl
@[simp] theorem setR_busy (b : Bool) (s : State) : (setR b s).busy = s.busy := rfl
@[simp] theorem setR_op (b : Bool) (s : State) : (setR b s).op = s.op := rfl
@[simp] theorem setR_step (b : Bool) (s : State) : (setR b s).step = s.step := rfl
@[simp] theorem setR_done (b : Bool) (s : State) : (setR b s).done = s.done := rfl
@[simp] theorem setR_result (b : Bool) (s : State) : (setR b s).result = s.result := rfl
@[simp] theorem setR_err (b : Bool) (s : State) : (setR b s).err = s.err := rfl
@[simp] theorem setR_idSeen (b : Bool) (s : State) : (setR b s).idSeen = s.idSeen := rfl
@[simp] theorem setR_cmd (b : Bool) (s : State) : (setR b s).cmd = s.cmd := rfl
@[simp] theorem setR_fbuf (b : Bool) (s : State) : (setR b s).fbuf = s.fbuf := rfl
@[simp] theorem setR_rep (b : Bool) (s : State) : (setR b s).rep = s.rep := rfl
@[simp] theorem setR_idx (b : Bool) (s : State) : (setR b s).idx = s.idx := rfl
@[simp] theorem setR_t0 (b : Bool) (s : State) : (setR b s).t0 = s.t0 := rfl
@[simp] theorem setR_pmode (b : Bool) (s : State) : (setR b s).pmode = s.pmode := rfl
@[simp] theorem setR_radioMode (b : Bool) (s : State) : (setR b s).radioMode = s.radioMode := rfl
@[simp] theorem setR_pinCs (b : Bool) (s : State) : (setR b s).pinCs = s.pinCs := rfl
@[simp] theorem setR_pinReset (b : Bool) (s : State) : (setR b s).pinReset = s.pinReset := rfl
@[simp] theorem setR_pinData (b : Bool) (s : State) : (setR b s).pinData = s.pinData := rfl
@[simp] theorem setR_irq (b : Bool) (s : State) : (setR b s).irq = s.irq := rfl
@[simp] theorem setR_trace (b : Bool) (s : State) : (setR b s).trace = s.trace := rfl
@[simp] theorem setR_sub (b : Bool) (s : State) : (setR b s).sub = s.sub := rfl
@[simp] theorem setR_pollK (b : Bool) (s : State) : (setR b s).pollK = s.pollK := rfl
@[simp] theorem setR_r (b : Bool) (s : State) : (setR b s).r = b := rfl
@[simp] theorem setR_ok (b : Bool) (s : State) : (setR b s).ok = s.ok := rfl
@[simp] theorem setR_rdata (b : Bool) (s : State) : (setR b s).rdata = s.rdata := rfl
@[simp] theorem setR_lookup (b : Bool) (s : State) : (setR b s).lookup = s.lookup := rfl
@[simp] theorem setR_built (b : Bool) (s : State) : (setR b s).built = s.built := rfl
@[simp] theorem setR_hostIn (b : Bool) (s : State) : (setR b s).hostIn = s.hostIn := rfl
@[simp] theorem setR_issue (b : Bool) (s : State) : (setR b s).issue = s.issue := rfl
@[simp] theorem setR_busIn (b : Bool) (s : State) : (setR b s).busIn = s.busIn := rfl
@[simp] theorem setR_busDraws (b : Bool) (s : State) : (setR b s).busDraws = s.busDraws := rfl
@[simp] theorem setR_timeIn (b : Bool) (s : State) : (setR b s).timeIn = s.timeIn := rfl
@[simp] theorem setR_timeDraws (b : Bool) (s : State) : (setR b s).timeDraws = s.timeDraws := rfl

/-! ### setCmd -/

@[simp] theorem setCmd_rstate (c : BitVec 4) (s : State) : (setCmd c s).rstate = s.rstate := rfl
@[simp] theorem setCmd_busy (c : BitVec 4) (s : State) : (setCmd c s).busy = s.busy := rfl
@[simp] theorem setCmd_op (c : BitVec 4) (s : State) : (setCmd c s).op = s.op := rfl
@[simp] theorem setCmd_step (c : BitVec 4) (s : State) : (setCmd c s).step = s.step := rfl
@[simp] theorem setCmd_done (c : BitVec 4) (s : State) : (setCmd c s).done = s.done := rfl
@[simp] theorem setCmd_result (c : BitVec 4) (s : State) : (setCmd c s).result = s.result := rfl
@[simp] theorem setCmd_err (c : BitVec 4) (s : State) : (setCmd c s).err = s.err := rfl
@[simp] theorem setCmd_idSeen (c : BitVec 4) (s : State) : (setCmd c s).idSeen = s.idSeen := rfl
@[simp] theorem setCmd_cmd (c : BitVec 4) (s : State) : (setCmd c s).cmd = c := rfl
@[simp] theorem setCmd_fbuf (c : BitVec 4) (s : State) : (setCmd c s).fbuf = s.fbuf := rfl
@[simp] theorem setCmd_rep (c : BitVec 4) (s : State) : (setCmd c s).rep = s.rep := rfl
@[simp] theorem setCmd_idx (c : BitVec 4) (s : State) : (setCmd c s).idx = s.idx := rfl
@[simp] theorem setCmd_t0 (c : BitVec 4) (s : State) : (setCmd c s).t0 = s.t0 := rfl
@[simp] theorem setCmd_pmode (c : BitVec 4) (s : State) : (setCmd c s).pmode = s.pmode := rfl
@[simp] theorem setCmd_radioMode (c : BitVec 4) (s : State) : (setCmd c s).radioMode = s.radioMode := rfl
@[simp] theorem setCmd_pinCs (c : BitVec 4) (s : State) : (setCmd c s).pinCs = s.pinCs := rfl
@[simp] theorem setCmd_pinReset (c : BitVec 4) (s : State) : (setCmd c s).pinReset = s.pinReset := rfl
@[simp] theorem setCmd_pinData (c : BitVec 4) (s : State) : (setCmd c s).pinData = s.pinData := rfl
@[simp] theorem setCmd_irq (c : BitVec 4) (s : State) : (setCmd c s).irq = s.irq := rfl
@[simp] theorem setCmd_trace (c : BitVec 4) (s : State) : (setCmd c s).trace = s.trace := rfl
@[simp] theorem setCmd_sub (c : BitVec 4) (s : State) : (setCmd c s).sub = s.sub := rfl
@[simp] theorem setCmd_pollK (c : BitVec 4) (s : State) : (setCmd c s).pollK = s.pollK := rfl
@[simp] theorem setCmd_r (c : BitVec 4) (s : State) : (setCmd c s).r = s.r := rfl
@[simp] theorem setCmd_ok (c : BitVec 4) (s : State) : (setCmd c s).ok = s.ok := rfl
@[simp] theorem setCmd_rdata (c : BitVec 4) (s : State) : (setCmd c s).rdata = s.rdata := rfl
@[simp] theorem setCmd_lookup (c : BitVec 4) (s : State) : (setCmd c s).lookup = s.lookup := rfl
@[simp] theorem setCmd_built (c : BitVec 4) (s : State) : (setCmd c s).built = s.built := rfl
@[simp] theorem setCmd_hostIn (c : BitVec 4) (s : State) : (setCmd c s).hostIn = s.hostIn := rfl
@[simp] theorem setCmd_issue (c : BitVec 4) (s : State) : (setCmd c s).issue = s.issue := rfl
@[simp] theorem setCmd_busIn (c : BitVec 4) (s : State) : (setCmd c s).busIn = s.busIn := rfl
@[simp] theorem setCmd_busDraws (c : BitVec 4) (s : State) : (setCmd c s).busDraws = s.busDraws := rfl
@[simp] theorem setCmd_timeIn (c : BitVec 4) (s : State) : (setCmd c s).timeIn = s.timeIn := rfl
@[simp] theorem setCmd_timeDraws (c : BitVec 4) (s : State) : (setCmd c s).timeDraws = s.timeDraws := rfl

/-! ### setFbuf -/

@[simp] theorem setFbuf_rstate (f : Frame) (s : State) : (setFbuf f s).rstate = s.rstate := rfl
@[simp] theorem setFbuf_busy (f : Frame) (s : State) : (setFbuf f s).busy = s.busy := rfl
@[simp] theorem setFbuf_op (f : Frame) (s : State) : (setFbuf f s).op = s.op := rfl
@[simp] theorem setFbuf_step (f : Frame) (s : State) : (setFbuf f s).step = s.step := rfl
@[simp] theorem setFbuf_done (f : Frame) (s : State) : (setFbuf f s).done = s.done := rfl
@[simp] theorem setFbuf_result (f : Frame) (s : State) : (setFbuf f s).result = s.result := rfl
@[simp] theorem setFbuf_err (f : Frame) (s : State) : (setFbuf f s).err = s.err := rfl
@[simp] theorem setFbuf_idSeen (f : Frame) (s : State) : (setFbuf f s).idSeen = s.idSeen := rfl
@[simp] theorem setFbuf_cmd (f : Frame) (s : State) : (setFbuf f s).cmd = s.cmd := rfl
@[simp] theorem setFbuf_fbuf (f : Frame) (s : State) : (setFbuf f s).fbuf = f := rfl
@[simp] theorem setFbuf_rep (f : Frame) (s : State) : (setFbuf f s).rep = s.rep := rfl
@[simp] theorem setFbuf_idx (f : Frame) (s : State) : (setFbuf f s).idx = s.idx := rfl
@[simp] theorem setFbuf_t0 (f : Frame) (s : State) : (setFbuf f s).t0 = s.t0 := rfl
@[simp] theorem setFbuf_pmode (f : Frame) (s : State) : (setFbuf f s).pmode = s.pmode := rfl
@[simp] theorem setFbuf_radioMode (f : Frame) (s : State) : (setFbuf f s).radioMode = s.radioMode := rfl
@[simp] theorem setFbuf_pinCs (f : Frame) (s : State) : (setFbuf f s).pinCs = s.pinCs := rfl
@[simp] theorem setFbuf_pinReset (f : Frame) (s : State) : (setFbuf f s).pinReset = s.pinReset := rfl
@[simp] theorem setFbuf_pinData (f : Frame) (s : State) : (setFbuf f s).pinData = s.pinData := rfl
@[simp] theorem setFbuf_irq (f : Frame) (s : State) : (setFbuf f s).irq = s.irq := rfl
@[simp] theorem setFbuf_trace (f : Frame) (s : State) : (setFbuf f s).trace = s.trace := rfl
@[simp] theorem setFbuf_sub (f : Frame) (s : State) : (setFbuf f s).sub = s.sub := rfl
@[simp] theorem setFbuf_pollK (f : Frame) (s : State) : (setFbuf f s).pollK = s.pollK := rfl
@[simp] theorem setFbuf_r (f : Frame) (s : State) : (setFbuf f s).r = s.r := rfl
@[simp] theorem setFbuf_ok (f : Frame) (s : State) : (setFbuf f s).ok = s.ok := rfl
@[simp] theorem setFbuf_rdata (f : Frame) (s : State) : (setFbuf f s).rdata = s.rdata := rfl
@[simp] theorem setFbuf_lookup (f : Frame) (s : State) : (setFbuf f s).lookup = s.lookup := rfl
@[simp] theorem setFbuf_built (f : Frame) (s : State) : (setFbuf f s).built = s.built := rfl
@[simp] theorem setFbuf_hostIn (f : Frame) (s : State) : (setFbuf f s).hostIn = s.hostIn := rfl
@[simp] theorem setFbuf_issue (f : Frame) (s : State) : (setFbuf f s).issue = s.issue := rfl
@[simp] theorem setFbuf_busIn (f : Frame) (s : State) : (setFbuf f s).busIn = s.busIn := rfl
@[simp] theorem setFbuf_busDraws (f : Frame) (s : State) : (setFbuf f s).busDraws = s.busDraws := rfl
@[simp] theorem setFbuf_timeIn (f : Frame) (s : State) : (setFbuf f s).timeIn = s.timeIn := rfl
@[simp] theorem setFbuf_timeDraws (f : Frame) (s : State) : (setFbuf f s).timeDraws = s.timeDraws := rfl

/-! ### setRep -/

@[simp] theorem setRep_rstate (k : Fin 8) (s : State) : (setRep k s).rstate = s.rstate := rfl
@[simp] theorem setRep_busy (k : Fin 8) (s : State) : (setRep k s).busy = s.busy := rfl
@[simp] theorem setRep_op (k : Fin 8) (s : State) : (setRep k s).op = s.op := rfl
@[simp] theorem setRep_step (k : Fin 8) (s : State) : (setRep k s).step = s.step := rfl
@[simp] theorem setRep_done (k : Fin 8) (s : State) : (setRep k s).done = s.done := rfl
@[simp] theorem setRep_result (k : Fin 8) (s : State) : (setRep k s).result = s.result := rfl
@[simp] theorem setRep_err (k : Fin 8) (s : State) : (setRep k s).err = s.err := rfl
@[simp] theorem setRep_idSeen (k : Fin 8) (s : State) : (setRep k s).idSeen = s.idSeen := rfl
@[simp] theorem setRep_cmd (k : Fin 8) (s : State) : (setRep k s).cmd = s.cmd := rfl
@[simp] theorem setRep_fbuf (k : Fin 8) (s : State) : (setRep k s).fbuf = s.fbuf := rfl
@[simp] theorem setRep_rep (k : Fin 8) (s : State) : (setRep k s).rep = k := rfl
@[simp] theorem setRep_idx (k : Fin 8) (s : State) : (setRep k s).idx = s.idx := rfl
@[simp] theorem setRep_t0 (k : Fin 8) (s : State) : (setRep k s).t0 = s.t0 := rfl
@[simp] theorem setRep_pmode (k : Fin 8) (s : State) : (setRep k s).pmode = s.pmode := rfl
@[simp] theorem setRep_radioMode (k : Fin 8) (s : State) : (setRep k s).radioMode = s.radioMode := rfl
@[simp] theorem setRep_pinCs (k : Fin 8) (s : State) : (setRep k s).pinCs = s.pinCs := rfl
@[simp] theorem setRep_pinReset (k : Fin 8) (s : State) : (setRep k s).pinReset = s.pinReset := rfl
@[simp] theorem setRep_pinData (k : Fin 8) (s : State) : (setRep k s).pinData = s.pinData := rfl
@[simp] theorem setRep_irq (k : Fin 8) (s : State) : (setRep k s).irq = s.irq := rfl
@[simp] theorem setRep_trace (k : Fin 8) (s : State) : (setRep k s).trace = s.trace := rfl
@[simp] theorem setRep_sub (k : Fin 8) (s : State) : (setRep k s).sub = s.sub := rfl
@[simp] theorem setRep_pollK (k : Fin 8) (s : State) : (setRep k s).pollK = s.pollK := rfl
@[simp] theorem setRep_r (k : Fin 8) (s : State) : (setRep k s).r = s.r := rfl
@[simp] theorem setRep_ok (k : Fin 8) (s : State) : (setRep k s).ok = s.ok := rfl
@[simp] theorem setRep_rdata (k : Fin 8) (s : State) : (setRep k s).rdata = s.rdata := rfl
@[simp] theorem setRep_lookup (k : Fin 8) (s : State) : (setRep k s).lookup = s.lookup := rfl
@[simp] theorem setRep_built (k : Fin 8) (s : State) : (setRep k s).built = s.built := rfl
@[simp] theorem setRep_hostIn (k : Fin 8) (s : State) : (setRep k s).hostIn = s.hostIn := rfl
@[simp] theorem setRep_issue (k : Fin 8) (s : State) : (setRep k s).issue = s.issue := rfl
@[simp] theorem setRep_busIn (k : Fin 8) (s : State) : (setRep k s).busIn = s.busIn := rfl
@[simp] theorem setRep_busDraws (k : Fin 8) (s : State) : (setRep k s).busDraws = s.busDraws := rfl
@[simp] theorem setRep_timeIn (k : Fin 8) (s : State) : (setRep k s).timeIn = s.timeIn := rfl
@[simp] theorem setRep_timeDraws (k : Fin 8) (s : State) : (setRep k s).timeDraws = s.timeDraws := rfl

/-! ### setIdx -/

@[simp] theorem setIdx_rstate (i : Fin 166) (s : State) : (setIdx i s).rstate = s.rstate := rfl
@[simp] theorem setIdx_busy (i : Fin 166) (s : State) : (setIdx i s).busy = s.busy := rfl
@[simp] theorem setIdx_op (i : Fin 166) (s : State) : (setIdx i s).op = s.op := rfl
@[simp] theorem setIdx_step (i : Fin 166) (s : State) : (setIdx i s).step = s.step := rfl
@[simp] theorem setIdx_done (i : Fin 166) (s : State) : (setIdx i s).done = s.done := rfl
@[simp] theorem setIdx_result (i : Fin 166) (s : State) : (setIdx i s).result = s.result := rfl
@[simp] theorem setIdx_err (i : Fin 166) (s : State) : (setIdx i s).err = s.err := rfl
@[simp] theorem setIdx_idSeen (i : Fin 166) (s : State) : (setIdx i s).idSeen = s.idSeen := rfl
@[simp] theorem setIdx_cmd (i : Fin 166) (s : State) : (setIdx i s).cmd = s.cmd := rfl
@[simp] theorem setIdx_fbuf (i : Fin 166) (s : State) : (setIdx i s).fbuf = s.fbuf := rfl
@[simp] theorem setIdx_rep (i : Fin 166) (s : State) : (setIdx i s).rep = s.rep := rfl
@[simp] theorem setIdx_idx (i : Fin 166) (s : State) : (setIdx i s).idx = i := rfl
@[simp] theorem setIdx_t0 (i : Fin 166) (s : State) : (setIdx i s).t0 = s.t0 := rfl
@[simp] theorem setIdx_pmode (i : Fin 166) (s : State) : (setIdx i s).pmode = s.pmode := rfl
@[simp] theorem setIdx_radioMode (i : Fin 166) (s : State) : (setIdx i s).radioMode = s.radioMode := rfl
@[simp] theorem setIdx_pinCs (i : Fin 166) (s : State) : (setIdx i s).pinCs = s.pinCs := rfl
@[simp] theorem setIdx_pinReset (i : Fin 166) (s : State) : (setIdx i s).pinReset = s.pinReset := rfl
@[simp] theorem setIdx_pinData (i : Fin 166) (s : State) : (setIdx i s).pinData = s.pinData := rfl
@[simp] theorem setIdx_irq (i : Fin 166) (s : State) : (setIdx i s).irq = s.irq := rfl
@[simp] theorem setIdx_trace (i : Fin 166) (s : State) : (setIdx i s).trace = s.trace := rfl
@[simp] theorem setIdx_sub (i : Fin 166) (s : State) : (setIdx i s).sub = s.sub := rfl
@[simp] theorem setIdx_pollK (i : Fin 166) (s : State) : (setIdx i s).pollK = s.pollK := rfl
@[simp] theorem setIdx_r (i : Fin 166) (s : State) : (setIdx i s).r = s.r := rfl
@[simp] theorem setIdx_ok (i : Fin 166) (s : State) : (setIdx i s).ok = s.ok := rfl
@[simp] theorem setIdx_rdata (i : Fin 166) (s : State) : (setIdx i s).rdata = s.rdata := rfl
@[simp] theorem setIdx_lookup (i : Fin 166) (s : State) : (setIdx i s).lookup = s.lookup := rfl
@[simp] theorem setIdx_built (i : Fin 166) (s : State) : (setIdx i s).built = s.built := rfl
@[simp] theorem setIdx_hostIn (i : Fin 166) (s : State) : (setIdx i s).hostIn = s.hostIn := rfl
@[simp] theorem setIdx_issue (i : Fin 166) (s : State) : (setIdx i s).issue = s.issue := rfl
@[simp] theorem setIdx_busIn (i : Fin 166) (s : State) : (setIdx i s).busIn = s.busIn := rfl
@[simp] theorem setIdx_busDraws (i : Fin 166) (s : State) : (setIdx i s).busDraws = s.busDraws := rfl
@[simp] theorem setIdx_timeIn (i : Fin 166) (s : State) : (setIdx i s).timeIn = s.timeIn := rfl
@[simp] theorem setIdx_timeDraws (i : Fin 166) (s : State) : (setIdx i s).timeDraws = s.timeDraws := rfl

/-! ### pinWriteData -/

@[simp] theorem pinWriteData_rstate (l : Bool) (s : State) : (pinWrite .data l s).rstate = s.rstate := rfl
@[simp] theorem pinWriteData_busy (l : Bool) (s : State) : (pinWrite .data l s).busy = s.busy := rfl
@[simp] theorem pinWriteData_op (l : Bool) (s : State) : (pinWrite .data l s).op = s.op := rfl
@[simp] theorem pinWriteData_step (l : Bool) (s : State) : (pinWrite .data l s).step = s.step := rfl
@[simp] theorem pinWriteData_done (l : Bool) (s : State) : (pinWrite .data l s).done = s.done := rfl
@[simp] theorem pinWriteData_result (l : Bool) (s : State) : (pinWrite .data l s).result = s.result := rfl
@[simp] theorem pinWriteData_err (l : Bool) (s : State) : (pinWrite .data l s).err = s.err := rfl
@[simp] theorem pinWriteData_idSeen (l : Bool) (s : State) : (pinWrite .data l s).idSeen = s.idSeen := rfl
@[simp] theorem pinWriteData_cmd (l : Bool) (s : State) : (pinWrite .data l s).cmd = s.cmd := rfl
@[simp] theorem pinWriteData_fbuf (l : Bool) (s : State) : (pinWrite .data l s).fbuf = s.fbuf := rfl
@[simp] theorem pinWriteData_rep (l : Bool) (s : State) : (pinWrite .data l s).rep = s.rep := rfl
@[simp] theorem pinWriteData_idx (l : Bool) (s : State) : (pinWrite .data l s).idx = s.idx := rfl
@[simp] theorem pinWriteData_t0 (l : Bool) (s : State) : (pinWrite .data l s).t0 = s.t0 := rfl
@[simp] theorem pinWriteData_pmode (l : Bool) (s : State) : (pinWrite .data l s).pmode = s.pmode := rfl
@[simp] theorem pinWriteData_radioMode (l : Bool) (s : State) : (pinWrite .data l s).radioMode = s.radioMode := rfl
@[simp] theorem pinWriteData_pinCs (l : Bool) (s : State) : (pinWrite .data l s).pinCs = s.pinCs := rfl
@[simp] theorem pinWriteData_pinReset (l : Bool) (s : State) : (pinWrite .data l s).pinReset = s.pinReset := rfl
@[simp] theorem pinWriteData_pinData (l : Bool) (s : State) : (pinWrite .data l s).pinData = l := rfl
@[simp] theorem pinWriteData_irq (l : Bool) (s : State) : (pinWrite .data l s).irq = s.irq := rfl
@[simp] theorem pinWriteData_trace (l : Bool) (s : State) : (pinWrite .data l s).trace = s.trace ++ [.pin .data l] := rfl
@[simp] theorem pinWriteData_sub (l : Bool) (s : State) : (pinWrite .data l s).sub = s.sub := rfl
@[simp] theorem pinWriteData_pollK (l : Bool) (s : State) : (pinWrite .data l s).pollK = s.pollK := rfl
@[simp] theorem pinWriteData_r (l : Bool) (s : State) : (pinWrite .data l s).r = s.r := rfl
@[simp] theorem pinWriteData_ok (l : Bool) (s : State) : (pinWrite .data l s).ok = s.ok := rfl
@[simp] theorem pinWriteData_rdata (l : Bool) (s : State) : (pinWrite .data l s).rdata = s.rdata := rfl
@[simp] theorem pinWriteData_lookup (l : Bool) (s : State) : (pinWrite .data l s).lookup = s.lookup := rfl
@[simp] theorem pinWriteData_built (l : Bool) (s : State) : (pinWrite .data l s).built = s.built := rfl
@[simp] theorem pinWriteData_hostIn (l : Bool) (s : State) : (pinWrite .data l s).hostIn = s.hostIn := rfl
@[simp] theorem pinWriteData_issue (l : Bool) (s : State) : (pinWrite .data l s).issue = s.issue := rfl
@[simp] theorem pinWriteData_busIn (l : Bool) (s : State) : (pinWrite .data l s).busIn = s.busIn := rfl
@[simp] theorem pinWriteData_busDraws (l : Bool) (s : State) : (pinWrite .data l s).busDraws = s.busDraws := rfl
@[simp] theorem pinWriteData_timeIn (l : Bool) (s : State) : (pinWrite .data l s).timeIn = s.timeIn := rfl
@[simp] theorem pinWriteData_timeDraws (l : Bool) (s : State) : (pinWrite .data l s).timeDraws = s.timeDraws := rfl

/-! ### pinWriteReset -/

@[simp] theorem pinWriteReset_rstate (l : Bool) (s : State) : (pinWrite .reset l s).rstate = s.rstate := rfl
@[simp] theorem pinWriteReset_busy (l : Bool) (s : State) : (pinWrite .reset l s).busy = s.busy := rfl
@[simp] theorem pinWriteReset_op (l : Bool) (s : State) : (pinWrite .reset l s).op = s.op := rfl
@[simp] theorem pinWriteReset_step (l : Bool) (s : State) : (pinWrite .reset l s).step = s.step := rfl
@[simp] theorem pinWriteReset_done (l : Bool) (s : State) : (pinWrite .reset l s).done = s.done := rfl
@[simp] theorem pinWriteReset_result (l : Bool) (s : State) : (pinWrite .reset l s).result = s.result := rfl
@[simp] theorem pinWriteReset_err (l : Bool) (s : State) : (pinWrite .reset l s).err = s.err := rfl
@[simp] theorem pinWriteReset_idSeen (l : Bool) (s : State) : (pinWrite .reset l s).idSeen = s.idSeen := rfl
@[simp] theorem pinWriteReset_cmd (l : Bool) (s : State) : (pinWrite .reset l s).cmd = s.cmd := rfl
@[simp] theorem pinWriteReset_fbuf (l : Bool) (s : State) : (pinWrite .reset l s).fbuf = s.fbuf := rfl
@[simp] theorem pinWriteReset_rep (l : Bool) (s : State) : (pinWrite .reset l s).rep = s.rep := rfl
@[simp] theorem pinWriteReset_idx (l : Bool) (s : State) : (pinWrite .reset l s).idx = s.idx := rfl
@[simp] theorem pinWriteReset_t0 (l : Bool) (s : State) : (pinWrite .reset l s).t0 = s.t0 := rfl
@[simp] theorem pinWriteReset_pmode (l : Bool) (s : State) : (pinWrite .reset l s).pmode = s.pmode := rfl
@[simp] theorem pinWriteReset_radioMode (l : Bool) (s : State) : (pinWrite .reset l s).radioMode = s.radioMode := rfl
@[simp] theorem pinWriteReset_pinCs (l : Bool) (s : State) : (pinWrite .reset l s).pinCs = s.pinCs := rfl
@[simp] theorem pinWriteReset_pinReset (l : Bool) (s : State) : (pinWrite .reset l s).pinReset = l := rfl
@[simp] theorem pinWriteReset_pinData (l : Bool) (s : State) : (pinWrite .reset l s).pinData = s.pinData := rfl
@[simp] theorem pinWriteReset_irq (l : Bool) (s : State) : (pinWrite .reset l s).irq = s.irq := rfl
@[simp] theorem pinWriteReset_trace (l : Bool) (s : State) : (pinWrite .reset l s).trace = s.trace ++ [.pin .reset l] := rfl
@[simp] theorem pinWriteReset_sub (l : Bool) (s : State) : (pinWrite .reset l s).sub = s.sub := rfl
@[simp] theorem pinWriteReset_pollK (l : Bool) (s : State) : (pinWrite .reset l s).pollK = s.pollK := rfl
@[simp] theorem pinWriteReset_r (l : Bool) (s : State) : (pinWrite .reset l s).r = s.r := rfl
@[simp] theorem pinWriteReset_ok (l : Bool) (s : State) : (pinWrite .reset l s).ok = s.ok := rfl
@[simp] theorem pinWriteReset_rdata (l : Bool) (s : State) : (pinWrite .reset l s).rdata = s.rdata := rfl
@[simp] theorem pinWriteReset_lookup (l : Bool) (s : State) : (pinWrite .reset l s).lookup = s.lookup := rfl
@[simp] theorem pinWriteReset_built (l : Bool) (s : State) : (pinWrite .reset l s).built = s.built := rfl
@[simp] theorem pinWriteReset_hostIn (l : Bool) (s : State) : (pinWrite .reset l s).hostIn = s.hostIn := rfl
@[simp] theorem pinWriteReset_issue (l : Bool) (s : State) : (pinWrite .reset l s).issue = s.issue := rfl
@[simp] theorem pinWriteReset_busIn (l : Bool) (s : State) : (pinWrite .reset l s).busIn = s.busIn := rfl
@[simp] theorem pinWriteReset_busDraws (l : Bool) (s : State) : (pinWrite .reset l s).busDraws = s.busDraws := rfl
@[simp] theorem pinWriteReset_timeIn (l : Bool) (s : State) : (pinWrite .reset l s).timeIn = s.timeIn := rfl
@[simp] theorem pinWriteReset_timeDraws (l : Bool) (s : State) : (pinWrite .reset l s).timeDraws = s.timeDraws := rfl

/-! ### pinWriteCs -/

@[simp] theorem pinWriteCs_rstate (l : Bool) (s : State) : (pinWrite .cs l s).rstate = s.rstate := rfl
@[simp] theorem pinWriteCs_busy (l : Bool) (s : State) : (pinWrite .cs l s).busy = s.busy := rfl
@[simp] theorem pinWriteCs_op (l : Bool) (s : State) : (pinWrite .cs l s).op = s.op := rfl
@[simp] theorem pinWriteCs_step (l : Bool) (s : State) : (pinWrite .cs l s).step = s.step := rfl
@[simp] theorem pinWriteCs_done (l : Bool) (s : State) : (pinWrite .cs l s).done = s.done := rfl
@[simp] theorem pinWriteCs_result (l : Bool) (s : State) : (pinWrite .cs l s).result = s.result := rfl
@[simp] theorem pinWriteCs_err (l : Bool) (s : State) : (pinWrite .cs l s).err = s.err := rfl
@[simp] theorem pinWriteCs_idSeen (l : Bool) (s : State) : (pinWrite .cs l s).idSeen = s.idSeen := rfl
@[simp] theorem pinWriteCs_cmd (l : Bool) (s : State) : (pinWrite .cs l s).cmd = s.cmd := rfl
@[simp] theorem pinWriteCs_fbuf (l : Bool) (s : State) : (pinWrite .cs l s).fbuf = s.fbuf := rfl
@[simp] theorem pinWriteCs_rep (l : Bool) (s : State) : (pinWrite .cs l s).rep = s.rep := rfl
@[simp] theorem pinWriteCs_idx (l : Bool) (s : State) : (pinWrite .cs l s).idx = s.idx := rfl
@[simp] theorem pinWriteCs_t0 (l : Bool) (s : State) : (pinWrite .cs l s).t0 = s.t0 := rfl
@[simp] theorem pinWriteCs_pmode (l : Bool) (s : State) : (pinWrite .cs l s).pmode = s.pmode := rfl
@[simp] theorem pinWriteCs_radioMode (l : Bool) (s : State) : (pinWrite .cs l s).radioMode = s.radioMode := rfl
@[simp] theorem pinWriteCs_pinCs (l : Bool) (s : State) : (pinWrite .cs l s).pinCs = l := rfl
@[simp] theorem pinWriteCs_pinReset (l : Bool) (s : State) : (pinWrite .cs l s).pinReset = s.pinReset := rfl
@[simp] theorem pinWriteCs_pinData (l : Bool) (s : State) : (pinWrite .cs l s).pinData = s.pinData := rfl
@[simp] theorem pinWriteCs_irq (l : Bool) (s : State) : (pinWrite .cs l s).irq = s.irq := rfl
@[simp] theorem pinWriteCs_trace (l : Bool) (s : State) : (pinWrite .cs l s).trace = s.trace ++ [.pin .cs l] := rfl
@[simp] theorem pinWriteCs_sub (l : Bool) (s : State) : (pinWrite .cs l s).sub = s.sub := rfl
@[simp] theorem pinWriteCs_pollK (l : Bool) (s : State) : (pinWrite .cs l s).pollK = s.pollK := rfl
@[simp] theorem pinWriteCs_r (l : Bool) (s : State) : (pinWrite .cs l s).r = s.r := rfl
@[simp] theorem pinWriteCs_ok (l : Bool) (s : State) : (pinWrite .cs l s).ok = s.ok := rfl
@[simp] theorem pinWriteCs_rdata (l : Bool) (s : State) : (pinWrite .cs l s).rdata = s.rdata := rfl
@[simp] theorem pinWriteCs_lookup (l : Bool) (s : State) : (pinWrite .cs l s).lookup = s.lookup := rfl
@[simp] theorem pinWriteCs_built (l : Bool) (s : State) : (pinWrite .cs l s).built = s.built := rfl
@[simp] theorem pinWriteCs_hostIn (l : Bool) (s : State) : (pinWrite .cs l s).hostIn = s.hostIn := rfl
@[simp] theorem pinWriteCs_issue (l : Bool) (s : State) : (pinWrite .cs l s).issue = s.issue := rfl
@[simp] theorem pinWriteCs_busIn (l : Bool) (s : State) : (pinWrite .cs l s).busIn = s.busIn := rfl
@[simp] theorem pinWriteCs_busDraws (l : Bool) (s : State) : (pinWrite .cs l s).busDraws = s.busDraws := rfl
@[simp] theorem pinWriteCs_timeIn (l : Bool) (s : State) : (pinWrite .cs l s).timeIn = s.timeIn := rfl
@[simp] theorem pinWriteCs_timeDraws (l : Bool) (s : State) : (pinWrite .cs l s).timeDraws = s.timeDraws := rfl

/-! ### accept -/

@[simp] theorem accept_rstate (o : Op) (w : Byte) (st : Step) (s : State) : (accept o w st s).rstate = s.rstate := rfl
@[simp] theorem accept_busy (o : Op) (w : Byte) (st : Step) (s : State) : (accept o w st s).busy = true := rfl
@[simp] theorem accept_op (o : Op) (w : Byte) (st : Step) (s : State) : (accept o w st s).op = o := rfl
@[simp] theorem accept_step (o : Op) (w : Byte) (st : Step) (s : State) : (accept o w st s).step = some st := rfl
@[simp] theorem accept_done (o : Op) (w : Byte) (st : Step) (s : State) : (accept o w st s).done = false := rfl
@[simp] theorem accept_result (o : Op) (w : Byte) (st : Step) (s : State) : (accept o w st s).result = s.result := rfl
@[simp] theorem accept_err (o : Op) (w : Byte) (st : Step) (s : State) : (accept o w st s).err = s.err := rfl
@[simp] theorem accept_idSeen (o : Op) (w : Byte) (st : Step) (s : State) : (accept o w st s).idSeen = s.idSeen := rfl
@[simp] theorem accept_cmd (o : Op) (w : Byte) (st : Step) (s : State) : (accept o w st s).cmd = s.cmd := rfl
@[simp] theorem accept_fbuf (o : Op) (w : Byte) (st : Step) (s : State) : (accept o w st s).fbuf = s.fbuf := rfl
@[simp] theorem accept_rep (o : Op) (w : Byte) (st : Step) (s : State) : (accept o w st s).rep = s.rep := rfl
@[simp] theorem accept_idx (o : Op) (w : Byte) (st : Step) (s : State) : (accept o w st s).idx = s.idx := rfl
@[simp] theorem accept_t0 (o : Op) (w : Byte) (st : Step) (s : State) : (accept o w st s).t0 = s.t0 := rfl
@[simp] theorem accept_pmode (o : Op) (w : Byte) (st : Step) (s : State) : (accept o w st s).pmode = s.pmode := rfl
@[simp] theorem accept_radioMode (o : Op) (w : Byte) (st : Step) (s : State) : (accept o w st s).radioMode = s.radioMode := rfl
@[simp] theorem accept_pinCs (o : Op) (w : Byte) (st : Step) (s : State) : (accept o w st s).pinCs = s.pinCs := rfl
@[simp] theorem accept_pinReset (o : Op) (w : Byte) (st : Step) (s : State) : (accept o w st s).pinReset = s.pinReset := rfl
@[simp] theorem accept_pinData (o : Op) (w : Byte) (st : Step) (s : State) : (accept o w st s).pinData = s.pinData := rfl
@[simp] theorem accept_irq (o : Op) (w : Byte) (st : Step) (s : State) : (accept o w st s).irq = s.irq := rfl
@[simp] theorem accept_trace (o : Op) (w : Byte) (st : Step) (s : State) : (accept o w st s).trace = s.trace ++ [.req w] := rfl
@[simp] theorem accept_sub (o : Op) (w : Byte) (st : Step) (s : State) : (accept o w st s).sub = .item 0 := rfl
@[simp] theorem accept_pollK (o : Op) (w : Byte) (st : Step) (s : State) : (accept o w st s).pollK = s.pollK := rfl
@[simp] theorem accept_r (o : Op) (w : Byte) (st : Step) (s : State) : (accept o w st s).r = s.r := rfl
@[simp] theorem accept_ok (o : Op) (w : Byte) (st : Step) (s : State) : (accept o w st s).ok = s.ok := rfl
@[simp] theorem accept_rdata (o : Op) (w : Byte) (st : Step) (s : State) : (accept o w st s).rdata = s.rdata := rfl
@[simp] theorem accept_lookup (o : Op) (w : Byte) (st : Step) (s : State) : (accept o w st s).lookup = s.lookup := rfl
@[simp] theorem accept_built (o : Op) (w : Byte) (st : Step) (s : State) : (accept o w st s).built = s.built := rfl
@[simp] theorem accept_hostIn (o : Op) (w : Byte) (st : Step) (s : State) : (accept o w st s).hostIn = s.hostIn := rfl
@[simp] theorem accept_issue (o : Op) (w : Byte) (st : Step) (s : State) : (accept o w st s).issue = s.issue := rfl
@[simp] theorem accept_busIn (o : Op) (w : Byte) (st : Step) (s : State) : (accept o w st s).busIn = s.busIn := rfl
@[simp] theorem accept_busDraws (o : Op) (w : Byte) (st : Step) (s : State) : (accept o w st s).busDraws = s.busDraws := rfl
@[simp] theorem accept_timeIn (o : Op) (w : Byte) (st : Step) (s : State) : (accept o w st s).timeIn = s.timeIn := rfl
@[simp] theorem accept_timeDraws (o : Op) (w : Byte) (st : Step) (s : State) : (accept o w st s).timeDraws = s.timeDraws := rfl

/-! ### takeAnswer -/

theorem takeAnswer_eq (s : State) : takeAnswer s = { s with busIn := s.busIn.tail, busDraws := if s.busIn = [] then s.busDraws + 1 else s.busDraws } := by
  unfold takeAnswer; split <;> simp_all

@[simp] theorem takeAnswer_rstate (s : State) : (takeAnswer s).rstate = s.rstate := by rw [takeAnswer_eq]
@[simp] theorem takeAnswer_busy (s : State) : (takeAnswer s).busy = s.busy := by rw [takeAnswer_eq]
@[simp] theorem takeAnswer_op (s : State) : (takeAnswer s).op = s.op := by rw [takeAnswer_eq]
@[simp] theorem takeAnswer_step (s : State) : (takeAnswer s).step = s.step := by rw [takeAnswer_eq]
@[simp] theorem takeAnswer_done (s : State) : (takeAnswer s).done = s.done := by rw [takeAnswer_eq]
@[simp] theorem takeAnswer_result (s : State) : (takeAnswer s).result = s.result := by rw [takeAnswer_eq]
@[simp] theorem takeAnswer_err (s : State) : (takeAnswer s).err = s.err := by rw [takeAnswer_eq]
@[simp] theorem takeAnswer_idSeen (s : State) : (takeAnswer s).idSeen = s.idSeen := by rw [takeAnswer_eq]
@[simp] theorem takeAnswer_cmd (s : State) : (takeAnswer s).cmd = s.cmd := by rw [takeAnswer_eq]
@[simp] theorem takeAnswer_fbuf (s : State) : (takeAnswer s).fbuf = s.fbuf := by rw [takeAnswer_eq]
@[simp] theorem takeAnswer_rep (s : State) : (takeAnswer s).rep = s.rep := by rw [takeAnswer_eq]
@[simp] theorem takeAnswer_idx (s : State) : (takeAnswer s).idx = s.idx := by rw [takeAnswer_eq]
@[simp] theorem takeAnswer_t0 (s : State) : (takeAnswer s).t0 = s.t0 := by rw [takeAnswer_eq]
@[simp] theorem takeAnswer_pmode (s : State) : (takeAnswer s).pmode = s.pmode := by rw [takeAnswer_eq]
@[simp] theorem takeAnswer_radioMode (s : State) : (takeAnswer s).radioMode = s.radioMode := by rw [takeAnswer_eq]
@[simp] theorem takeAnswer_pinCs (s : State) : (takeAnswer s).pinCs = s.pinCs := by rw [takeAnswer_eq]
@[simp] theorem takeAnswer_pinReset (s : State) : (takeAnswer s).pinReset = s.pinReset := by rw [takeAnswer_eq]
@[simp] theorem takeAnswer_pinData (s : State) : (takeAnswer s).pinData = s.pinData := by rw [takeAnswer_eq]
@[simp] theorem takeAnswer_irq (s : State) : (takeAnswer s).irq = s.irq := by rw [takeAnswer_eq]
@[simp] theorem takeAnswer_trace (s : State) : (takeAnswer s).trace = s.trace := by rw [takeAnswer_eq]
@[simp] theorem takeAnswer_sub (s : State) : (takeAnswer s).sub = s.sub := by rw [takeAnswer_eq]
@[simp] theorem takeAnswer_pollK (s : State) : (takeAnswer s).pollK = s.pollK := by rw [takeAnswer_eq]
@[simp] theorem takeAnswer_r (s : State) : (takeAnswer s).r = s.r := by rw [takeAnswer_eq]
@[simp] theorem takeAnswer_ok (s : State) : (takeAnswer s).ok = s.ok := by rw [takeAnswer_eq]
@[simp] theorem takeAnswer_rdata (s : State) : (takeAnswer s).rdata = s.rdata := by rw [takeAnswer_eq]
@[simp] theorem takeAnswer_lookup (s : State) : (takeAnswer s).lookup = s.lookup := by rw [takeAnswer_eq]
@[simp] theorem takeAnswer_built (s : State) : (takeAnswer s).built = s.built := by rw [takeAnswer_eq]
@[simp] theorem takeAnswer_hostIn (s : State) : (takeAnswer s).hostIn = s.hostIn := by rw [takeAnswer_eq]
@[simp] theorem takeAnswer_issue (s : State) : (takeAnswer s).issue = s.issue := by rw [takeAnswer_eq]
@[simp] theorem takeAnswer_busIn (s : State) : (takeAnswer s).busIn = s.busIn.tail := by rw [takeAnswer_eq]
@[simp] theorem takeAnswer_busDraws (s : State) : (takeAnswer s).busDraws = if s.busIn = [] then s.busDraws + 1 else s.busDraws := by rw [takeAnswer_eq]
@[simp] theorem takeAnswer_timeIn (s : State) : (takeAnswer s).timeIn = s.timeIn := by rw [takeAnswer_eq]
@[simp] theorem takeAnswer_timeDraws (s : State) : (takeAnswer s).timeDraws = s.timeDraws := by rw [takeAnswer_eq]

/-! ### takeReading -/

theorem takeReading_eq (s : State) : takeReading s = { s with timeIn := s.timeIn.tail, timeDraws := if s.timeIn = [] then s.timeDraws + 1 else s.timeDraws } := by
  unfold takeReading; split <;> simp_all

@[simp] theorem takeReading_rstate (s : State) : (takeReading s).rstate = s.rstate := by rw [takeReading_eq]
@[simp] theorem takeReading_busy (s : State) : (takeReading s).busy = s.busy := by rw [takeReading_eq]
@[simp] theorem takeReading_op (s : State) : (takeReading s).op = s.op := by rw [takeReading_eq]
@[simp] theorem takeReading_step (s : State) : (takeReading s).step = s.step := by rw [takeReading_eq]
@[simp] theorem takeReading_done (s : State) : (takeReading s).done = s.done := by rw [takeReading_eq]
@[simp] theorem takeReading_result (s : State) : (takeReading s).result = s.result := by rw [takeReading_eq]
@[simp] theorem takeReading_err (s : State) : (takeReading s).err = s.err := by rw [takeReading_eq]
@[simp] theorem takeReading_idSeen (s : State) : (takeReading s).idSeen = s.idSeen := by rw [takeReading_eq]
@[simp] theorem takeReading_cmd (s : State) : (takeReading s).cmd = s.cmd := by rw [takeReading_eq]
@[simp] theorem takeReading_fbuf (s : State) : (takeReading s).fbuf = s.fbuf := by rw [takeReading_eq]
@[simp] theorem takeReading_rep (s : State) : (takeReading s).rep = s.rep := by rw [takeReading_eq]
@[simp] theorem takeReading_idx (s : State) : (takeReading s).idx = s.idx := by rw [takeReading_eq]
@[simp] theorem takeReading_t0 (s : State) : (takeReading s).t0 = s.t0 := by rw [takeReading_eq]
@[simp] theorem takeReading_pmode (s : State) : (takeReading s).pmode = s.pmode := by rw [takeReading_eq]
@[simp] theorem takeReading_radioMode (s : State) : (takeReading s).radioMode = s.radioMode := by rw [takeReading_eq]
@[simp] theorem takeReading_pinCs (s : State) : (takeReading s).pinCs = s.pinCs := by rw [takeReading_eq]
@[simp] theorem takeReading_pinReset (s : State) : (takeReading s).pinReset = s.pinReset := by rw [takeReading_eq]
@[simp] theorem takeReading_pinData (s : State) : (takeReading s).pinData = s.pinData := by rw [takeReading_eq]
@[simp] theorem takeReading_irq (s : State) : (takeReading s).irq = s.irq := by rw [takeReading_eq]
@[simp] theorem takeReading_trace (s : State) : (takeReading s).trace = s.trace := by rw [takeReading_eq]
@[simp] theorem takeReading_sub (s : State) : (takeReading s).sub = s.sub := by rw [takeReading_eq]
@[simp] theorem takeReading_pollK (s : State) : (takeReading s).pollK = s.pollK := by rw [takeReading_eq]
@[simp] theorem takeReading_r (s : State) : (takeReading s).r = s.r := by rw [takeReading_eq]
@[simp] theorem takeReading_ok (s : State) : (takeReading s).ok = s.ok := by rw [takeReading_eq]
@[simp] theorem takeReading_rdata (s : State) : (takeReading s).rdata = s.rdata := by rw [takeReading_eq]
@[simp] theorem takeReading_lookup (s : State) : (takeReading s).lookup = s.lookup := by rw [takeReading_eq]
@[simp] theorem takeReading_built (s : State) : (takeReading s).built = s.built := by rw [takeReading_eq]
@[simp] theorem takeReading_hostIn (s : State) : (takeReading s).hostIn = s.hostIn := by rw [takeReading_eq]
@[simp] theorem takeReading_issue (s : State) : (takeReading s).issue = s.issue := by rw [takeReading_eq]
@[simp] theorem takeReading_busIn (s : State) : (takeReading s).busIn = s.busIn := by rw [takeReading_eq]
@[simp] theorem takeReading_busDraws (s : State) : (takeReading s).busDraws = s.busDraws := by rw [takeReading_eq]
@[simp] theorem takeReading_timeIn (s : State) : (takeReading s).timeIn = s.timeIn.tail := by rw [takeReading_eq]
@[simp] theorem takeReading_timeDraws (s : State) : (takeReading s).timeDraws = if s.timeIn = [] then s.timeDraws + 1 else s.timeDraws := by rw [takeReading_eq]

/-! ### readTransfer -/

@[simp] theorem readTransfer_rstate (a : RegAddr) (s : State) : (readTransfer a s).rstate = s.rstate := by simp [readTransfer]
@[simp] theorem readTransfer_busy (a : RegAddr) (s : State) : (readTransfer a s).busy = s.busy := by simp [readTransfer]
@[simp] theorem readTransfer_op (a : RegAddr) (s : State) : (readTransfer a s).op = s.op := by simp [readTransfer]
@[simp] theorem readTransfer_step (a : RegAddr) (s : State) : (readTransfer a s).step = s.step := by simp [readTransfer]
@[simp] theorem readTransfer_done (a : RegAddr) (s : State) : (readTransfer a s).done = s.done := by simp [readTransfer]
@[simp] theorem readTransfer_result (a : RegAddr) (s : State) : (readTransfer a s).result = s.result := by simp [readTransfer]
@[simp] theorem readTransfer_err (a : RegAddr) (s : State) : (readTransfer a s).err = s.err := by simp [readTransfer]
@[simp] theorem readTransfer_idSeen (a : RegAddr) (s : State) : (readTransfer a s).idSeen = s.idSeen := by simp [readTransfer]
@[simp] theorem readTransfer_cmd (a : RegAddr) (s : State) : (readTransfer a s).cmd = s.cmd := by simp [readTransfer]
@[simp] theorem readTransfer_fbuf (a : RegAddr) (s : State) : (readTransfer a s).fbuf = s.fbuf := by simp [readTransfer]
@[simp] theorem readTransfer_rep (a : RegAddr) (s : State) : (readTransfer a s).rep = s.rep := by simp [readTransfer]
@[simp] theorem readTransfer_idx (a : RegAddr) (s : State) : (readTransfer a s).idx = s.idx := by simp [readTransfer]
@[simp] theorem readTransfer_t0 (a : RegAddr) (s : State) : (readTransfer a s).t0 = s.t0 := by simp [readTransfer]
@[simp] theorem readTransfer_pmode (a : RegAddr) (s : State) : (readTransfer a s).pmode = s.pmode := by simp [readTransfer]
@[simp] theorem readTransfer_radioMode (a : RegAddr) (s : State) : (readTransfer a s).radioMode = s.radioMode := by simp [readTransfer]
@[simp] theorem readTransfer_pinCs (a : RegAddr) (s : State) : (readTransfer a s).pinCs = true := by simp [readTransfer]
@[simp] theorem readTransfer_pinReset (a : RegAddr) (s : State) : (readTransfer a s).pinReset = s.pinReset := by simp [readTransfer]
@[simp] theorem readTransfer_pinData (a : RegAddr) (s : State) : (readTransfer a s).pinData = s.pinData := by simp [readTransfer]
@[simp] theorem readTransfer_irq (a : RegAddr) (s : State) : (readTransfer a s).irq = s.irq := by simp [readTransfer]
@[simp] theorem readTransfer_trace (a : RegAddr) (s : State) : (readTransfer a s).trace = s.trace ++ [.busR a (nextAnswer a s)] := by simp [readTransfer]
@[simp] theorem readTransfer_sub (a : RegAddr) (s : State) : (readTransfer a s).sub = s.sub := by simp [readTransfer]
@[simp] theorem readTransfer_pollK (a : RegAddr) (s : State) : (readTransfer a s).pollK = s.pollK := by simp [readTransfer]
@[simp] theorem readTransfer_r (a : RegAddr) (s : State) : (readTransfer a s).r = s.r := by simp [readTransfer]
@[simp] theorem readTransfer_ok (a : RegAddr) (s : State) : (readTransfer a s).ok = s.ok := by simp [readTransfer]
@[simp] theorem readTransfer_rdata (a : RegAddr) (s : State) : (readTransfer a s).rdata = nextAnswer a s := by simp [readTransfer]
@[simp] theorem readTransfer_lookup (a : RegAddr) (s : State) : (readTransfer a s).lookup = s.lookup := by simp [readTransfer]
@[simp] theorem readTransfer_built (a : RegAddr) (s : State) : (readTransfer a s).built = s.built := by simp [readTransfer]
@[simp] theorem readTransfer_hostIn (a : RegAddr) (s : State) : (readTransfer a s).hostIn = s.hostIn := by simp [readTransfer]
@[simp] theorem readTransfer_issue (a : RegAddr) (s : State) : (readTransfer a s).issue = s.issue := by simp [readTransfer]
@[simp] theorem readTransfer_busIn (a : RegAddr) (s : State) : (readTransfer a s).busIn = s.busIn.tail := by simp [readTransfer]
@[simp] theorem readTransfer_busDraws (a : RegAddr) (s : State) : (readTransfer a s).busDraws = if s.busIn = [] then s.busDraws + 1 else s.busDraws := by simp [readTransfer]
@[simp] theorem readTransfer_timeIn (a : RegAddr) (s : State) : (readTransfer a s).timeIn = s.timeIn := by simp [readTransfer]
@[simp] theorem readTransfer_timeDraws (a : RegAddr) (s : State) : (readTransfer a s).timeDraws = s.timeDraws := by simp [readTransfer]

/-! ### writeTransfer -/

@[simp] theorem writeTransfer_rstate (cfg : Config) (a : RegAddr) (v : Byte) (s : State) : (writeTransfer cfg a v s).rstate = s.rstate := rfl
@[simp] theorem writeTransfer_busy (cfg : Config) (a : RegAddr) (v : Byte) (s : State) : (writeTransfer cfg a v s).busy = s.busy := rfl
@[simp] theorem writeTransfer_op (cfg : Config) (a : RegAddr) (v : Byte) (s : State) : (writeTransfer cfg a v s).op = s.op := rfl
@[simp] theorem writeTransfer_step (cfg : Config) (a : RegAddr) (v : Byte) (s : State) : (writeTransfer cfg a v s).step = s.step := rfl
@[simp] theorem writeTransfer_done (cfg : Config) (a : RegAddr) (v : Byte) (s : State) : (writeTransfer cfg a v s).done = s.done := rfl
@[simp] theorem writeTransfer_result (cfg : Config) (a : RegAddr) (v : Byte) (s : State) : (writeTransfer cfg a v s).result = s.result := rfl
@[simp] theorem writeTransfer_err (cfg : Config) (a : RegAddr) (v : Byte) (s : State) : (writeTransfer cfg a v s).err = s.err := rfl
@[simp] theorem writeTransfer_idSeen (cfg : Config) (a : RegAddr) (v : Byte) (s : State) : (writeTransfer cfg a v s).idSeen = s.idSeen := rfl
@[simp] theorem writeTransfer_cmd (cfg : Config) (a : RegAddr) (v : Byte) (s : State) : (writeTransfer cfg a v s).cmd = s.cmd := rfl
@[simp] theorem writeTransfer_fbuf (cfg : Config) (a : RegAddr) (v : Byte) (s : State) : (writeTransfer cfg a v s).fbuf = s.fbuf := rfl
@[simp] theorem writeTransfer_rep (cfg : Config) (a : RegAddr) (v : Byte) (s : State) : (writeTransfer cfg a v s).rep = s.rep := rfl
@[simp] theorem writeTransfer_idx (cfg : Config) (a : RegAddr) (v : Byte) (s : State) : (writeTransfer cfg a v s).idx = s.idx := rfl
@[simp] theorem writeTransfer_t0 (cfg : Config) (a : RegAddr) (v : Byte) (s : State) : (writeTransfer cfg a v s).t0 = s.t0 := rfl
@[simp] theorem writeTransfer_pmode (cfg : Config) (a : RegAddr) (v : Byte) (s : State) : (writeTransfer cfg a v s).pmode = s.pmode := rfl
@[simp] theorem writeTransfer_radioMode (cfg : Config) (a : RegAddr) (v : Byte) (s : State) : (writeTransfer cfg a v s).radioMode = if a = cfg.regOpmode then some v else s.radioMode := rfl
@[simp] theorem writeTransfer_pinCs (cfg : Config) (a : RegAddr) (v : Byte) (s : State) : (writeTransfer cfg a v s).pinCs = true := rfl
@[simp] theorem writeTransfer_pinReset (cfg : Config) (a : RegAddr) (v : Byte) (s : State) : (writeTransfer cfg a v s).pinReset = s.pinReset := rfl
@[simp] theorem writeTransfer_pinData (cfg : Config) (a : RegAddr) (v : Byte) (s : State) : (writeTransfer cfg a v s).pinData = s.pinData := rfl
@[simp] theorem writeTransfer_irq (cfg : Config) (a : RegAddr) (v : Byte) (s : State) : (writeTransfer cfg a v s).irq = s.irq := rfl
@[simp] theorem writeTransfer_trace (cfg : Config) (a : RegAddr) (v : Byte) (s : State) : (writeTransfer cfg a v s).trace = s.trace ++ [.busW a v] := rfl
@[simp] theorem writeTransfer_sub (cfg : Config) (a : RegAddr) (v : Byte) (s : State) : (writeTransfer cfg a v s).sub = s.sub := rfl
@[simp] theorem writeTransfer_pollK (cfg : Config) (a : RegAddr) (v : Byte) (s : State) : (writeTransfer cfg a v s).pollK = s.pollK := rfl
@[simp] theorem writeTransfer_r (cfg : Config) (a : RegAddr) (v : Byte) (s : State) : (writeTransfer cfg a v s).r = s.r := rfl
@[simp] theorem writeTransfer_ok (cfg : Config) (a : RegAddr) (v : Byte) (s : State) : (writeTransfer cfg a v s).ok = s.ok := rfl
@[simp] theorem writeTransfer_rdata (cfg : Config) (a : RegAddr) (v : Byte) (s : State) : (writeTransfer cfg a v s).rdata = s.rdata := rfl
@[simp] theorem writeTransfer_lookup (cfg : Config) (a : RegAddr) (v : Byte) (s : State) : (writeTransfer cfg a v s).lookup = s.lookup := rfl
@[simp] theorem writeTransfer_built (cfg : Config) (a : RegAddr) (v : Byte) (s : State) : (writeTransfer cfg a v s).built = s.built := rfl
@[simp] theorem writeTransfer_hostIn (cfg : Config) (a : RegAddr) (v : Byte) (s : State) : (writeTransfer cfg a v s).hostIn = s.hostIn := rfl
@[simp] theorem writeTransfer_issue (cfg : Config) (a : RegAddr) (v : Byte) (s : State) : (writeTransfer cfg a v s).issue = s.issue := rfl
@[simp] theorem writeTransfer_busIn (cfg : Config) (a : RegAddr) (v : Byte) (s : State) : (writeTransfer cfg a v s).busIn = s.busIn := rfl
@[simp] theorem writeTransfer_busDraws (cfg : Config) (a : RegAddr) (v : Byte) (s : State) : (writeTransfer cfg a v s).busDraws = s.busDraws := rfl
@[simp] theorem writeTransfer_timeIn (cfg : Config) (a : RegAddr) (v : Byte) (s : State) : (writeTransfer cfg a v s).timeIn = s.timeIn := rfl
@[simp] theorem writeTransfer_timeDraws (cfg : Config) (a : RegAddr) (v : Byte) (s : State) : (writeTransfer cfg a v s).timeDraws = s.timeDraws := rfl

/-! ### pollBegin -/

@[simp] theorem pollBegin_rstate (m : Mode) (s : State) : (pollBegin m s).rstate = s.rstate := by simp [pollBegin]
@[simp] theorem pollBegin_busy (m : Mode) (s : State) : (pollBegin m s).busy = s.busy := by simp [pollBegin]
@[simp] theorem pollBegin_op (m : Mode) (s : State) : (pollBegin m s).op = s.op := by simp [pollBegin]
@[simp] theorem pollBegin_step (m : Mode) (s : State) : (pollBegin m s).step = s.step := by simp [pollBegin]
@[simp] theorem pollBegin_done (m : Mode) (s : State) : (pollBegin m s).done = s.done := by simp [pollBegin]
@[simp] theorem pollBegin_result (m : Mode) (s : State) : (pollBegin m s).result = s.result := by simp [pollBegin]
@[simp] theorem pollBegin_err (m : Mode) (s : State) : (pollBegin m s).err = s.err := by simp [pollBegin]
@[simp] theorem pollBegin_idSeen (m : Mode) (s : State) : (pollBegin m s).idSeen = s.idSeen := by simp [pollBegin]
@[simp] theorem pollBegin_cmd (m : Mode) (s : State) : (pollBegin m s).cmd = s.cmd := by simp [pollBegin]
@[simp] theorem pollBegin_fbuf (m : Mode) (s : State) : (pollBegin m s).fbuf = s.fbuf := by simp [pollBegin]
@[simp] theorem pollBegin_rep (m : Mode) (s : State) : (pollBegin m s).rep = s.rep := by simp [pollBegin]
@[simp] theorem pollBegin_idx (m : Mode) (s : State) : (pollBegin m s).idx = s.idx := by simp [pollBegin]
@[simp] theorem pollBegin_t0 (m : Mode) (s : State) : (pollBegin m s).t0 = nextReading s := by simp [pollBegin]
@[simp] theorem pollBegin_pmode (m : Mode) (s : State) : (pollBegin m s).pmode = m := by simp [pollBegin]
@[simp] theorem pollBegin_radioMode (m : Mode) (s : State) : (pollBegin m s).radioMode = s.radioMode := by simp [pollBegin]
@[simp] theorem pollBegin_pinCs (m : Mode) (s : State) : (pollBegin m s).pinCs = s.pinCs := by simp [pollBegin]
@[simp] theorem pollBegin_pinReset (m : Mode) (s : State) : (pollBegin m s).pinReset = s.pinReset := by simp [pollBegin]
@[simp] theorem pollBegin_pinData (m : Mode) (s : State) : (pollBegin m s).pinData = s.pinData := by simp [pollBegin]
@[simp] theorem pollBegin_irq (m : Mode) (s : State) : (pollBegin m s).irq = s.irq := by simp [pollBegin]
@[simp] theorem pollBegin_trace (m : Mode) (s : State) : (pollBegin m s).trace = s.trace ++ [.time (nextReading s)] := by simp [pollBegin]
@[simp] theorem pollBegin_sub (m : Mode) (s : State) : (pollBegin m s).sub = s.sub := by simp [pollBegin]
@[simp] theorem pollBegin_pollK (m : Mode) (s : State) : (pollBegin m s).pollK = 0 := by simp [pollBegin]
@[simp] theorem pollBegin_r (m : Mode) (s : State) : (pollBegin m s).r = s.r := by simp [pollBegin]
@[simp] theorem pollBegin_ok (m : Mode) (s : State) : (pollBegin m s).ok = s.ok := by simp [pollBegin]
@[simp] theorem pollBegin_rdata (m : Mode) (s : State) : (pollBegin m s).rdata = s.rdata := by simp [pollBegin]
@[simp] theorem pollBegin_lookup (m : Mode) (s : State) : (pollBegin m s).lookup = s.lookup := by simp [pollBegin]
@[simp] theorem pollBegin_built (m : Mode) (s : State) : (pollBegin m s).built = s.built := by simp [pollBegin]
@[simp] theorem pollBegin_hostIn (m : Mode) (s : State) : (pollBegin m s).hostIn = s.hostIn := by simp [pollBegin]
@[simp] theorem pollBegin_issue (m : Mode) (s : State) : (pollBegin m s).issue = s.issue := by simp [pollBegin]
@[simp] theorem pollBegin_busIn (m : Mode) (s : State) : (pollBegin m s).busIn = s.busIn := by simp [pollBegin]
@[simp] theorem pollBegin_busDraws (m : Mode) (s : State) : (pollBegin m s).busDraws = s.busDraws := by simp [pollBegin]
@[simp] theorem pollBegin_timeIn (m : Mode) (s : State) : (pollBegin m s).timeIn = s.timeIn.tail := by simp [pollBegin]
@[simp] theorem pollBegin_timeDraws (m : Mode) (s : State) : (pollBegin m s).timeDraws = if s.timeIn = [] then s.timeDraws + 1 else s.timeDraws := by simp [pollBegin]

/-! ### pollNow -/

@[simp] theorem pollNow_rstate (cfg : Config) (s : State) : (pollNow cfg s).rstate = s.rstate := by simp [pollNow]
@[simp] theorem pollNow_busy (cfg : Config) (s : State) : (pollNow cfg s).busy = s.busy := by simp [pollNow]
@[simp] theorem pollNow_op (cfg : Config) (s : State) : (pollNow cfg s).op = s.op := by simp [pollNow]
@[simp] theorem pollNow_step (cfg : Config) (s : State) : (pollNow cfg s).step = s.step := by simp [pollNow]
@[simp] theorem pollNow_done (cfg : Config) (s : State) : (pollNow cfg s).done = s.done := by simp [pollNow]
@[simp] theorem pollNow_result (cfg : Config) (s : State) : (pollNow cfg s).result = s.result := by simp [pollNow]
@[simp] theorem pollNow_err (cfg : Config) (s : State) : (pollNow cfg s).err = s.err := by simp [pollNow]
@[simp] theorem pollNow_idSeen (cfg : Config) (s : State) : (pollNow cfg s).idSeen = s.idSeen := by simp [pollNow]
@[simp] theorem pollNow_cmd (cfg : Config) (s : State) : (pollNow cfg s).cmd = s.cmd := by simp [pollNow]
@[simp] theorem pollNow_fbuf (cfg : Config) (s : State) : (pollNow cfg s).fbuf = s.fbuf := by simp [pollNow]
@[simp] theorem pollNow_rep (cfg : Config) (s : State) : (pollNow cfg s).rep = s.rep := by simp [pollNow]
@[simp] theorem pollNow_idx (cfg : Config) (s : State) : (pollNow cfg s).idx = s.idx := by simp [pollNow]
@[simp] theorem pollNow_t0 (cfg : Config) (s : State) : (pollNow cfg s).t0 = s.t0 := by simp [pollNow]
@[simp] theorem pollNow_pmode (cfg : Config) (s : State) : (pollNow cfg s).pmode = s.pmode := by simp [pollNow]
@[simp] theorem pollNow_radioMode (cfg : Config) (s : State) : (pollNow cfg s).radioMode = s.radioMode := by simp [pollNow]
@[simp] theorem pollNow_pinCs (cfg : Config) (s : State) : (pollNow cfg s).pinCs = s.pinCs := by simp [pollNow]
@[simp] theorem pollNow_pinReset (cfg : Config) (s : State) : (pollNow cfg s).pinReset = s.pinReset := by simp [pollNow]
@[simp] theorem pollNow_pinData (cfg : Config) (s : State) : (pollNow cfg s).pinData = s.pinData := by simp [pollNow]
@[simp] theorem pollNow_irq (cfg : Config) (s : State) : (pollNow cfg s).irq = s.irq := by simp [pollNow]
@[simp] theorem pollNow_trace (cfg : Config) (s : State) : (pollNow cfg s).trace = s.trace ++ [.time (testReading cfg s)] := by simp [pollNow]
@[simp] theorem pollNow_sub (cfg : Config) (s : State) : (pollNow cfg s).sub = s.sub := by simp [pollNow]
@[simp] theorem pollNow_pollK (cfg : Config) (s : State) : (pollNow cfg s).pollK = s.pollK + 1 := by simp [pollNow]
@[simp] theorem pollNow_r (cfg : Config) (s : State) : (pollNow cfg s).r = s.r := by simp [pollNow]
@[simp] theorem pollNow_ok (cfg : Config) (s : State) : (pollNow cfg s).ok = s.ok := by simp [pollNow]
@[simp] theorem pollNow_rdata (cfg : Config) (s : State) : (pollNow cfg s).rdata = s.rdata := by simp [pollNow]
@[simp] theorem pollNow_lookup (cfg : Config) (s : State) : (pollNow cfg s).lookup = s.lookup := by simp [pollNow]
@[simp] theorem pollNow_built (cfg : Config) (s : State) : (pollNow cfg s).built = s.built := by simp [pollNow]
@[simp] theorem pollNow_hostIn (cfg : Config) (s : State) : (pollNow cfg s).hostIn = s.hostIn := by simp [pollNow]
@[simp] theorem pollNow_issue (cfg : Config) (s : State) : (pollNow cfg s).issue = s.issue := by simp [pollNow]
@[simp] theorem pollNow_busIn (cfg : Config) (s : State) : (pollNow cfg s).busIn = s.busIn := by simp [pollNow]
@[simp] theorem pollNow_busDraws (cfg : Config) (s : State) : (pollNow cfg s).busDraws = s.busDraws := by simp [pollNow]
@[simp] theorem pollNow_timeIn (cfg : Config) (s : State) : (pollNow cfg s).timeIn = s.timeIn.tail := by simp [pollNow]
@[simp] theorem pollNow_timeDraws (cfg : Config) (s : State) : (pollNow cfg s).timeDraws = if s.timeIn = [] then s.timeDraws + 1 else s.timeDraws := by simp [pollNow]

/-! ### The pc commutes with what does not read it -/

@[simp] theorem goto_goto (a b : Step) (u v : Sub) (s : State) : goto a u (goto b v s) = goto a u s := rfl

@[simp] theorem complete_goto (r : Bool) (b : Step) (v : Sub) (s : State) : complete r (goto b v s) = complete r s := rfl

end Sys2Proof.Machine
end

