-- ==== Sys2Proof/Laws/Ops.lean ====
section
/-! SUPPORT. One law for each shared operation: the whole state it leaves. Later proofs cite these in place of unfolding the operation. -/

namespace Sys2Proof.Machine

/-! ### This hardware's parameters -/

@[simp] theorem hw_regOpmode : Config.hw.regOpmode = 0x01 := rfl
@[simp] theorem hw_regStatus : Config.hw.regStatus = 0x27 := rfl
@[simp] theorem hw_regVersion : Config.hw.regVersion = 0x10 := rfl
@[simp] theorem hw_symbolUs : Config.hw.symbolUs = 300 := rfl
@[simp] theorem hw_gapUs : Config.hw.gapUs = 8800 := rfl
@[simp] theorem hw_reps : Config.hw.reps = 5 := rfl
@[simp] theorem hw_timeoutUs : Config.hw.timeoutUs = 10000 := rfl
@[simp] theorem hw_tRstPulseUs : Config.hw.tRstPulseUs = 100 := rfl
@[simp] theorem hw_tRstWaitUs : Config.hw.tRstWaitUs = 5000 := rfl
@[simp] theorem hw_beginEntersStandby : Config.hw.beginEntersStandby = true := rfl

@[simp] theorem hw_paWrites : Config.hw.paWrites = [(0x11, 0x5F), (0x13, 0x1A)] := rfl

/-- This hardware's configuration is well formed (00 R8). -/
theorem configWf_hw : configWf Config.hw = true := by decide

/-- What a well-formed configuration gives the run of an operation. -/
theorem configWf_bounds {cfg : Config} (h : configWf cfg = true) :
    0 < cfg.timeoutUs ∧ cfg.timeoutUs < 2 ^ 32 ∧ 1 ≤ cfg.reps ∧ cfg.reps ≤ 8 := by
  simp [configWf] at h; omega

theorem tPollMinUs_pos (cfg : Config) : 0 < cfg.tPollMinUs := Nat.succ_pos _

/-- The writes of one configuration, in order (42 R177). -/
theorem configWrites_hw : configWrites Config.hw =
    [(0x02, 0x68), (0x07, 0x6C), (0x08, 0x7A), (0x09, 0xE1), (0x03, 0x25), (0x04, 0x80), (0x11, 0x5F), (0x13, 0x1A),
      (0x26, 0x07)] := by decide

/-! ### The other agents -/

/-- An answer depends on the transceiver's fields alone. -/
theorem nextAnswer_congr (a : RegAddr) {s t : State} (h1 : s.busIn = t.busIn) (h2 : s.busDraws = t.busDraws) :
    nextAnswer a s = nextAnswer a t := by
  simp only [nextAnswer, h1, h2]

/-- A reading depends on the time base's fields alone. -/
theorem nextReading_congr {s t : State} (h1 : s.timeIn = t.timeIn) (h2 : s.timeDraws = t.timeDraws) :
    nextReading s = nextReading t := by
  simp only [nextReading, h1, h2]

/-! ### Transactions and readings -/

/-- BusRead, whole (42 R151). -/
theorem busRead_eq (a : RegAddr) (s : State) : busRead a s = { s with
    rdata := nextAnswer a s, pinCs := true, busIn := (takeAnswer s).busIn, busDraws := (takeAnswer s).busDraws,
    trace := s.trace ++ [.busR a (nextAnswer a s)] } := by
  simp only [busRead, readTransfer, csAssert, takeAnswer, nextAnswer, emit]
  rcases s.busIn with _ | ⟨v, bs⟩ <;> rfl

/-- BusWrite, whole (42 R152). -/
theorem busWrite_eq (cfg : Config) (a : RegAddr) (v : Byte) (s : State) : busWrite cfg a v s = { s with
    radioMode := if a = cfg.regOpmode then some v else s.radioMode, pinCs := true,
    trace := s.trace ++ [.busW a v] } := rfl

/-- The start of a poll, whole (42 R161). -/
theorem pollBegin_eq (m : Mode) (s : State) : pollBegin m s = { s with
    pmode := m, t0 := nextReading s, pollK := 0,
    timeIn := (takeReading s).timeIn, timeDraws := (takeReading s).timeDraws,
    trace := s.trace ++ [.time (nextReading s)] } := by
  simp only [pollBegin, takeReading, nextReading, emit]
  rcases s.timeIn with _ | ⟨t, ts⟩ <;> rfl

/-- The reading of a time test, whole (42 R161). -/
theorem pollNow_eq (cfg : Config) (s : State) : pollNow cfg s = { s with
    pollK := s.pollK + 1, timeIn := (takeReading s).timeIn, timeDraws := (takeReading s).timeDraws,
    trace := s.trace ++ [.time (testReading cfg s)] } := by
  simp only [pollNow, takeReading, emit]
  rcases s.timeIn with _ | ⟨t, ts⟩ <;> rfl

/-! ### Acceptance, completion, reset -/

/-- Acceptance, whole (43 R190). -/
theorem accept_eq (o : Op) (w : Byte) (st : Step) (s : State) : accept o w st s = { s with
    busy := true, op := o, step := some st, sub := .item 0, done := false, trace := s.trace ++ [.req w] } := rfl

/-- Complete, whole (43 R195). -/
theorem complete_eq (r : Bool) (s : State) : complete r s = { s with
    result := r, op := .none, step := none, sub := .item 0, busy := false, done := true,
    trace := s.trace ++ [.done s.op r] } := rfl

/-- A request on a busy engine is dropped (43 R191). -/
theorem request_busy (cfg : Config) (f : State → State) {s : State} (h : s.busy = true) : request cfg f s = s := if_pos h

/-- A request on an idle engine is accepted and carried out. -/
theorem request_idle (cfg : Config) (f : State → State) {s : State} (h : s.busy = false) :
    request cfg f s = finish cfg (f s) := if_neg (by simp [h])

/-! ### The symbol transmitter -/

/-- One symbol, whole (41 R130). -/
theorem sendSymbol_eq (cfg : Config) (f : Frame) (s : State) (i : Fin 166) : sendSymbol cfg f s i = { s with
    idx := i, pinData := symbolAt f i,
    trace := s.trace ++ [.pin .data (symbolAt f i), .hold cfg.symbolUs] } := by
  simp [sendSymbol, hold, pinWrite, setPin, emit, setIdx]

/-! ### An instant -/

/-- Reset comes before anything else at an instant (60 R228). -/
theorem tick_reset (cfg : Config) {s : State} {rest : List HostIn} (h : s.hostIn = .reset :: rest) :
    tick cfg s = applyReset (passInstant s) := by
  simp only [tick, h]

/-- Without a reset the sequencer does its next action. -/
theorem tick_sequence (cfg : Config) {s : State} (h : ∀ rest, s.hostIn ≠ .reset :: rest) :
    tick cfg s = sequence cfg (passInstant s) := by
  unfold tick
  split
  · rename_i rest e; exact absurd e (h rest)
  · rfl

/-- An instant is one of two things. -/
theorem tick_cases (cfg : Config) (s : State) :
    (∃ rest, s.hostIn = .reset :: rest ∧ tick cfg s = applyReset (passInstant s)) ∨
      ((∀ rest, s.hostIn ≠ .reset :: rest) ∧ tick cfg s = sequence cfg (passInstant s)) := by
  by_cases h : ∃ rest, s.hostIn = .reset :: rest
  · obtain ⟨rest, h⟩ := h
    exact .inl ⟨rest, h, tick_reset cfg h⟩
  · have h' : ∀ rest, s.hostIn ≠ .reset :: rest := fun rest e => h ⟨rest, e⟩
    exact .inr ⟨h', tick_sequence cfg h'⟩

end Sys2Proof.Machine
end

