-- ==== Sys2Proof/Laws/Run.lean ====
section
/-! SUPPORT. How the sequencer runs: the algebra of runs of several instants, and what a run of each part of an operation leaves, in terms of the whole internal operations. -/

namespace Sys2Proof.Machine

/-! ### Runs -/

theorem runOp_zero (cfg : Config) (s : State) : runOp cfg 0 s = s := rfl

theorem runOp_succ (cfg : Config) (n : Nat) (s : State) :
    runOp cfg (n + 1) s = if s.busy then runOp cfg n (tick cfg s) else s := rfl

/-- An idle engine stays where it is. -/
theorem runOp_idle (cfg : Config) (n : Nat) {s : State} (h : s.busy = false) : runOp cfg n s = s := by
  cases n <;> simp [runOp, h]

theorem runOp_busy (cfg : Config) (n : Nat) {s : State} (h : s.busy = true) :
    runOp cfg (n + 1) s = runOp cfg n (tick cfg s) := by
  simp [runOp, h]

/-- A run of `m + n` instants is a run of `m` and then one of `n`. -/
theorem runOp_add (cfg : Config) (m n : Nat) (s : State) : runOp cfg (m + n) s = runOp cfg n (runOp cfg m s) := by
  induction m generalizing s with
  | zero => simp [runOp]
  | succ m ih =>
    rw [Nat.succ_add, runOp_succ, runOp_succ]
    cases h : s.busy
    · simp [runOp_idle cfg n h]
    · simpa using ih (tick cfg s)

/-- An operation is in progress, its `done` pulse is over, and the host presents nothing from now on. -/
structure Running (s : State) : Prop where
  busy : s.busy = true
  quiet : s.hostIn = []
  notDone : s.done = false

/-- The run from `s` passes through `t` after at most `b` instants. -/
def Runs (cfg : Config) (b : Nat) (s t : State) : Prop :=
  ∃ n, n ≤ b ∧ ∀ k, runOp cfg (n + k) s = runOp cfg k t

theorem Runs.refl (cfg : Config) (s : State) : Runs cfg 0 s s := ⟨0, le_rfl, fun k => by simp⟩

theorem Runs.trans {cfg : Config} {a b : Nat} {s t u : State} (h : Runs cfg a s t) (h' : Runs cfg b t u) :
    Runs cfg (a + b) s u := by
  obtain ⟨n, hn, e⟩ := h
  obtain ⟨m, hm, e'⟩ := h'
  refine ⟨n + m, by omega, fun k => ?_⟩
  rw [Nat.add_assoc, e, e']

theorem Runs.mono {cfg : Config} {a b : Nat} {s t : State} (h : Runs cfg a s t) (hab : a ≤ b) : Runs cfg b s t := by
  obtain ⟨n, hn, e⟩ := h
  exact ⟨n, by omega, e⟩

/-- With a quiet host an instant is the sequencer's action alone. -/
theorem tick_running (cfg : Config) {s : State} (h : Running s) : tick cfg s = sequence cfg s := by
  have e : passInstant s = s := by
    cases s; simp only [passInstant]; have := h.quiet; have := h.notDone; simp_all
  simp [tick, h.quiet, e]

/-- One action of the sequencer is a run of one instant. -/
theorem Runs.one {cfg : Config} {s t : State} (h : Running s) (e : sequence cfg s = t) : Runs cfg 1 s t :=
  ⟨1, le_rfl, fun k => by rw [Nat.add_comm, runOp_busy cfg k h.busy, tick_running cfg h, e]⟩

/-- A run that ends idle within the instants given to an operation is what `finish` answers. -/
theorem finish_of_runs {cfg : Config} {b : Nat} {s t : State} (h : Runs cfg b s t) (hb : b ≤ opInstants cfg)
    (ht : t.busy = false) : finish cfg s = t := by
  obtain ⟨n, hn, e⟩ := h
  have : opInstants cfg = n + (opInstants cfg - n) := by omega
  rw [finish, this, e, runOp_idle cfg _ ht]

/-! ### What keeps an operation running -/

namespace Running

variable {s : State}

theorem goto (h : Running s) (st : Step) (u : Sub) : Running (goto st u s) := ⟨h.busy, h.quiet, h.notDone⟩
theorem emit (h : Running s) (e : Event) : Running (emit e s) := ⟨h.busy, h.quiet, h.notDone⟩
theorem hold (h : Running s) (us : Nat) : Running (hold us s) := ⟨h.busy, h.quiet, h.notDone⟩
theorem pinWrite (h : Running s) (p : Pin) (l : Bool) : Running (pinWrite p l s) := by
  cases p <;> exact ⟨h.busy, h.quiet, h.notDone⟩
theorem csAssert (h : Running s) : Running (csAssert s) := ⟨h.busy, h.quiet, h.notDone⟩
theorem readTransfer (h : Running s) (a : RegAddr) : Running (readTransfer a s) :=
  ⟨by simp [h.busy], by simp [h.quiet], by simp [h.notDone]⟩
theorem writeTransfer (h : Running s) (cfg : Config) (a : RegAddr) (v : Byte) : Running (writeTransfer cfg a v s) :=
  ⟨h.busy, h.quiet, h.notDone⟩
theorem busRead (h : Running s) (a : RegAddr) : Running (busRead a s) := h.csAssert.readTransfer a
theorem busWrite (h : Running s) (cfg : Config) (a : RegAddr) (v : Byte) : Running (busWrite cfg a v s) :=
  h.csAssert.writeTransfer cfg a v
theorem pollBegin (h : Running s) (m : Mode) : Running (pollBegin m s) :=
  ⟨by simp [h.busy], by simp [h.quiet], by simp [h.notDone]⟩
theorem pollNow (h : Running s) (cfg : Config) : Running (pollNow cfg s) :=
  ⟨by simp [h.busy], by simp [h.quiet], by simp [h.notDone]⟩
theorem pollFail (h : Running s) (m : Mode) : Running (pollFail m s) := ⟨h.busy, h.quiet, h.notDone⟩
theorem pollOk (h : Running s) : Running (pollOk s) := ⟨h.busy, h.quiet, h.notDone⟩
theorem recordId (h : Running s) : Running (recordId s) := ⟨h.busy, h.quiet, h.notDone⟩

theorem pollLoop (cfg : Config) (m : Mode) (n : Nat) {s : State} (h : Running s) : Running (pollLoop cfg m n s) := by
  induction n generalizing s with
  | zero => exact h.pollFail m
  | succ n ih =>
    simp only [Machine.pollLoop]
    split
    · exact (h.busRead _).pollOk
    · split
      · exact ((h.busRead _).pollNow cfg).pollFail m
      · exact ih ((h.busRead _).pollNow cfg)

theorem enterMode (h : Running s) (cfg : Config) (m : Mode) : Running (enterMode cfg m s) :=
  Running.pollLoop cfg m _ ((h.busWrite cfg _ _).pollBegin m)

theorem busWrites (cfg : Config) (ws : List (RegAddr × Byte)) {s : State} (h : Running s) :
    Running (busWrites cfg ws s) := by
  induction ws generalizing s with
  | nil => exact h
  | cons w ws ih => exact ih (h.busWrite cfg w.1 w.2)

theorem resetPulse (h : Running s) (cfg : Config) : Running (resetPulse cfg s) :=
  (((h.pinWrite _ _).hold _).pinWrite _ _).hold _

theorem checkId (h : Running s) (cfg : Config) : Running (checkId cfg s) := (h.busRead _).recordId

theorem configureRadio (h : Running s) (cfg : Config) : Running (configureRadio cfg s) :=
  (h.busWrites cfg _).enterMode cfg _

theorem sendSymbol (h : Running s) (cfg : Config) (f : Frame) (i : Fin 166) : Running (sendSymbol cfg f s i) :=
  ⟨h.busy, h.quiet, h.notDone⟩

theorem sendSymbols (cfg : Config) (f : Frame) (is : List (Fin 166)) {s : State} (h : Running s) :
    Running (is.foldl (Machine.sendSymbol cfg f) s) := by
  induction is generalizing s with
  | nil => exact h
  | cons i is ih => exact ih (h.sendSymbol cfg f i)

theorem setRep (h : Running s) (k : Fin 8) : Running (setRep k s) := ⟨h.busy, h.quiet, h.notDone⟩
theorem setIdx (h : Running s) (i : Fin 166) : Running (setIdx i s) := ⟨h.busy, h.quiet, h.notDone⟩
theorem setErr (h : Running s) (e : ErrCode) : Running (setErr e s) := ⟨h.busy, h.quiet, h.notDone⟩
theorem setR (h : Running s) (b : Bool) : Running (setR b s) := ⟨h.busy, h.quiet, h.notDone⟩
theorem setRstate (h : Running s) (x : Readiness) : Running (setRstate x s) := ⟨h.busy, h.quiet, h.notDone⟩
theorem setFbuf (h : Running s) (f : Frame) : Running (setFbuf f s) := ⟨h.busy, h.quiet, h.notDone⟩
theorem lookupInto (h : Running s) (cfg : Config) (c : BitVec 4) : Running (lookupInto cfg c s) :=
  ⟨h.busy, h.quiet, h.notDone⟩
theorem buildInto (h : Running s) (cfg : Config) (p : Option Payload) : Running (buildInto cfg p s) :=
  ⟨h.busy, h.quiet, h.notDone⟩

theorem sendRepetition (h : Running s) (cfg : Config) (f : Frame) (k : Nat) : Running (sendRepetition cfg f s k) :=
  (((h.setRep _).sendSymbols cfg f _).pinWrite _ _).hold _

theorem sendRepetitions (cfg : Config) (f : Frame) (ks : List Nat) {s : State} (h : Running s) :
    Running (ks.foldl (Machine.sendRepetition cfg f) s) := by
  induction ks generalizing s with
  | nil => exact h
  | cons k ks ih => rw [List.foldl_cons]; exact ih (h.sendRepetition cfg f k)

theorem transmitFrame (h : Running s) (cfg : Config) (f : Frame) : Running (transmitFrame cfg f s) :=
  Running.sendRepetitions cfg f _ ((h.setRep 0).setIdx 0)

end Running

/-! ### A bus transaction takes one or two instants -/

theorem csAssert_of_low {s : State} (h : s.pinCs = false) : csAssert s = s := by
  rw [csAssert, ← h]

/-- At a pc whose action is a bus transaction, the run passes through its end, CS having been asserted. -/
theorem runs_busInstant {cfg : Config} {s : State} (h : Running s) {transfer : State → State}
    (hs : sequence cfg s = busInstant transfer s)
    (hs' : sequence cfg (csAssert s) = busInstant transfer (csAssert s)) :
    Runs cfg 2 s (transfer (csAssert s)) := by
  have h1 : sequence cfg (csAssert s) = transfer (csAssert s) := by simp [hs', busInstant]
  cases hc : s.pinCs
  · rw [csAssert_of_low hc] at h1 ⊢
    exact (Runs.one h h1).mono (by omega)
  · have h0 : sequence cfg s = csAssert s := by simp [hs, busInstant, hc]
    exact (Runs.one h h0).trans (Runs.one h.csAssert h1)

/-! ### Straight-line writes -/

/-- What one transaction of a writing step leads to. -/
theorem writesInstant_eq {cfg : Config} {ws : List (RegAddr × Byte)} {here : Step} {next : State → State} {s : State}
    {k : Nat} (hk : k < ws.length) (hs : s.sub = .item k) :
    writesInstant cfg ws here next s = busInstant (fun s =>
      if subIndex s.sub + 1 < ws.length then goto here (.item (subIndex s.sub + 1)) (writeTransfer cfg ws[k].1 ws[k].2 s)
      else next (writeTransfer cfg ws[k].1 ws[k].2 s)) s := by
  simp only [writesInstant, hs, subIndex, List.getElem?_eq_getElem hk]

/-- A step that makes the writes `ws`, from its `k`-th on. -/
theorem runs_writes {cfg : Config} {ws : List (RegAddr × Byte)} {here : Step} {next : State → State}
    (hseq : ∀ s, s.step = some here → sequence cfg s = writesInstant cfg ws here next s)
    (hnext : ∀ st u s, next (goto st u s) = next s) (d : Nat) :
    ∀ (k : Nat) (s : State), Running s → k + d = ws.length → k < ws.length →
      Runs cfg (2 * d) (goto here (.item k) s) (next (busWrites cfg (ws.drop k) s)) := by
  induction d with
  | zero => intro k s _ e hk; omega
  | succ d ih =>
    intro k s h e hk
    have h1 := runs_busInstant (h.goto here (.item k))
      ((hseq (goto here (.item k) s) rfl).trans (writesInstant_eq hk rfl))
      ((hseq (csAssert (goto here (.item k) s)) rfl).trans (writesInstant_eq hk rfl))
    have hcons : busWrites cfg (ws.drop k) s = busWrites cfg (ws.drop (k + 1)) (busWrite cfg ws[k].1 ws[k].2 s) := by
      rw [List.drop_eq_getElem_cons hk]; rfl
    by_cases hlast : k + 1 < ws.length
    · have e1 : (if k + 1 < ws.length
            then goto here (.item (k + 1)) (writeTransfer cfg ws[k].1 ws[k].2 (csAssert (goto here (.item k) s)))
            else next (writeTransfer cfg ws[k].1 ws[k].2 (csAssert (goto here (.item k) s)))) =
          goto here (.item (k + 1)) (busWrite cfg ws[k].1 ws[k].2 s) := if_pos hlast
      have h1 := e1 ▸ h1
      exact hcons ▸ (h1.trans (ih (k + 1) _ (h.busWrite cfg ws[k].1 ws[k].2) (by omega) hlast)).mono (by omega)
    · have e1 : (if k + 1 < ws.length
            then goto here (.item (k + 1)) (writeTransfer cfg ws[k].1 ws[k].2 (csAssert (goto here (.item k) s)))
            else next (writeTransfer cfg ws[k].1 ws[k].2 (csAssert (goto here (.item k) s)))) =
          next (busWrite cfg ws[k].1 ws[k].2 s) :=
        (if_neg hlast).trans (hnext here (.item k) (busWrite cfg ws[k].1 ws[k].2 s))
      have h1 := e1 ▸ h1
      have hnil : ws.drop (k + 1) = [] := by rw [List.drop_eq_nil_iff]; omega
      rw [hcons, hnil]
      exact h1.mono (by omega)

/-- The whole of a step that makes the writes `ws`, an empty list included. -/
theorem runs_writes_all {cfg : Config} {ws : List (RegAddr × Byte)} {here : Step} {next : State → State}
    (hseq : ∀ s, s.step = some here → sequence cfg s = writesInstant cfg ws here next s)
    (hnext : ∀ st u s, next (goto st u s) = next s) {s : State} (h : Running s) :
    Runs cfg (2 * ws.length + 1) (goto here (.item 0) s) (next (busWrites cfg ws s)) := by
  rcases Nat.eq_zero_or_pos ws.length with h0 | h0
  · have hws : ws = [] := List.length_eq_zero_iff.mp h0
    have e : sequence cfg (goto here (.item 0) s) = next s := by
      rw [hseq (goto here (.item 0) s) rfl]
      simp only [writesInstant, hws, List.getElem?_nil]
      exact hnext _ _ s
    rw [hws]
    exact (Runs.one (h.goto here (.item 0)) e).mono (by simp)
  · have := runs_writes hseq hnext ws.length 0 s h (by omega) h0
    rw [List.drop_zero] at this
    exact this.mono (by omega)

/-! ### The poll -/

/-- A reading under the law comes at least the law's floor after `t0` (60 R236). -/
theorem le_elapsed_lawfulReading (cfg : Config) (t0 t : Time) (k : Nat) :
    pollFloor cfg k ≤ elapsedUs t0 (lawfulReading cfg t0 k t) := by
  have hlt : pollFloor cfg k < 2 ^ 32 := by simp only [pollFloor]; omega
  unfold lawfulReading
  split
  · assumption
  · have : elapsedUs t0 (t0 + BitVec.ofNat 32 (pollFloor cfg k)) = pollFloor cfg k := by
      rw [elapsedUs, BitVec.add_comm, BitVec.add_sub_cancel, BitVec.toNat_ofNat, Nat.mod_eq_of_lt hlt]
    omega

/-- A reading that keeps the law is unchanged. -/
theorem lawfulReading_of_le {cfg : Config} {t0 t : Time} {k : Nat} (h : pollFloor cfg k ≤ elapsedUs t0 t) :
    lawfulReading cfg t0 k t = t := if_pos h

/-- The law never brings a reading before the one it was given. -/
theorem elapsed_le_lawfulReading (cfg : Config) (t0 t : Time) (k : Nat) :
    elapsedUs t0 t ≤ elapsedUs t0 (lawfulReading cfg t0 k t) := by
  by_cases h : pollFloor cfg k ≤ elapsedUs t0 t
  · rw [lawfulReading_of_le h]
  · exact (Nat.le_of_lt (Nat.lt_of_not_le h)).trans (le_elapsed_lawfulReading cfg t0 t k)

/-- The `TIMEOUT_US`-th time test of a poll has timed out at the latest (60 R236, 42 R168). -/
theorem timedOut_testReading {cfg : Config} {s : State} (hT : cfg.timeoutUs < 2 ^ 32)
    (hk : cfg.timeoutUs ≤ s.pollK + 1) : timedOut cfg s.t0 (testReading cfg s) = true := by
  have h1 : s.pollK + 1 ≤ (s.pollK + 1) * cfg.tPollMinUs := Nat.le_mul_of_pos_right _ (by simp [Config.tPollMinUs])
  have hfloor : cfg.timeoutUs ≤ pollFloor cfg (s.pollK + 1) := by
    rw [pollFloor, Nat.le_min]; omega
  rw [timedOut, decide_eq_true_eq]
  exact hfloor.trans (le_elapsed_lawfulReading cfg _ _ _)

theorem pollBegin_goto (m : Mode) (st : Step) (u : Sub) (s : State) :
    pollBegin m (goto st u s) = goto st u (pollBegin m s) := by
  simp only [pollBegin, takeReading_eq]; rfl

theorem pollNow_goto (cfg : Config) (st : Step) (u : Sub) (s : State) :
    pollNow cfg (goto st u s) = goto st u (pollNow cfg s) := by
  simp only [pollNow, takeReading_eq]; rfl

theorem readTransfer_goto (a : RegAddr) (st : Step) (u : Sub) (s : State) :
    readTransfer a (goto st u s) = goto st u (readTransfer a s) := by
  simp only [readTransfer, takeAnswer_eq]; rfl

theorem pollLoop_ready {cfg : Config} {m : Mode} {n : Nat} {s : State}
    (h : modeReady (busRead cfg.regStatus s).rdata = true) :
    pollLoop cfg m (n + 1) s = pollOk (busRead cfg.regStatus s) := by
  simp only [pollLoop]; rw [if_pos h]

theorem pollLoop_timedOut {cfg : Config} {m : Mode} {n : Nat} {s : State}
    (h : ¬ modeReady (busRead cfg.regStatus s).rdata = true)
    (ht : timedOut cfg s.t0 (testReading cfg (busRead cfg.regStatus s)) = true) :
    pollLoop cfg m (n + 1) s = pollFail m (pollNow cfg (busRead cfg.regStatus s)) := by
  have e : (busRead cfg.regStatus s).t0 = s.t0 := by simp [busRead]
  simp only [pollLoop]; rw [if_neg h, e, if_pos ht]

theorem pollLoop_again {cfg : Config} {m : Mode} {n : Nat} {s : State}
    (h : ¬ modeReady (busRead cfg.regStatus s).rdata = true)
    (ht : ¬ timedOut cfg s.t0 (testReading cfg (busRead cfg.regStatus s)) = true) :
    pollLoop cfg m (n + 1) s = pollLoop cfg m n (pollNow cfg (busRead cfg.regStatus s)) := by
  have e : (busRead cfg.regStatus s).t0 = s.t0 := by simp [busRead]
  simp only [pollLoop]; rw [if_neg h, e, if_neg ht]

/-- A step that enters a mode, seen from its poll: it goes on as the whole poll's result says. -/
theorem runs_poll {cfg : Config} {m : Mode} {here : Step} {yes no : State → State}
    (hseq : ∀ s, s.step = some here → sequence cfg s = enterModeInstant cfg m here yes no s)
    (hyes : ∀ st u s, yes (goto st u s) = yes s) (hno : ∀ st u s, no (goto st u s) = no s)
    (hT : cfg.timeoutUs < 2 ^ 32) (n : Nat) :
    ∀ s : State, Running s → s.pollK + n = cfg.timeoutUs → 0 < n →
      Runs cfg (3 * n) (goto here .pollRead s)
        (if (pollLoop cfg m n s).ok then yes (pollLoop cfg m n s) else no (pollLoop cfg m n s)) := by
  induction n with
  | zero => intro s _ _ h; omega
  | succ n ih =>
    intro s h hk _
    have hx : Running (busRead cfg.regStatus s) := h.busRead _
    have e0 : (busRead cfg.regStatus s).t0 = s.t0 := by simp [busRead]
    have hread := runs_busInstant (h.goto here .pollRead)
      (transfer := fun s =>
        if modeReady (readTransfer cfg.regStatus s).rdata then yes (pollOk (readTransfer cfg.regStatus s))
        else goto here .pollTest (readTransfer cfg.regStatus s))
      ((hseq (goto here .pollRead s) rfl).trans rfl) ((hseq (csAssert (goto here .pollRead s)) rfl).trans rfl)
    have ecs : csAssert (goto here .pollRead s) = goto here .pollRead (csAssert s) := rfl
    have epo : ∀ x, pollOk (goto here .pollRead x) = goto here .pollRead (pollOk x) := fun _ => rfl
    simp only [ecs, readTransfer_goto, goto_rdata, goto_goto, epo, hyes] at hread
    change Runs cfg 2 _ (if modeReady (busRead cfg.regStatus s).rdata = true
      then yes (pollOk (busRead cfg.regStatus s)) else goto here .pollTest (busRead cfg.regStatus s)) at hread
    by_cases hr : modeReady (busRead cfg.regStatus s).rdata = true
    · rw [if_pos hr] at hread
      rw [pollLoop_ready hr, if_pos (pollOk_ok _)]
      exact hread.mono (by omega)
    · rw [if_neg hr] at hread
      have htest : sequence cfg (goto here .pollTest (busRead cfg.regStatus s)) =
          if timedOut cfg s.t0 (testReading cfg (busRead cfg.regStatus s)) = true
          then no (pollFail m (pollNow cfg (busRead cfg.regStatus s)))
          else goto here .pollRead (pollNow cfg (busRead cfg.regStatus s)) := by
        rw [hseq (goto here .pollTest (busRead cfg.regStatus s)) rfl]
        simp only [enterModeInstant, goto_sub, pollNow_goto, goto_goto, goto_t0, e0]
        have e1 : testReading cfg (goto here .pollTest (busRead cfg.regStatus s)) =
            testReading cfg (busRead cfg.regStatus s) := rfl
        have e2 : ∀ x, pollFail m (goto here .pollTest x) = goto here .pollTest (pollFail m x) := fun _ => rfl
        rw [e1, e2, hno]
      have htest := Runs.one (hx.goto here .pollTest) htest
      by_cases ht : timedOut cfg s.t0 (testReading cfg (busRead cfg.regStatus s)) = true
      · rw [if_pos ht] at htest
        rw [pollLoop_timedOut hr ht, if_neg (by simp)]
        exact (hread.trans htest).mono (by omega)
      · rw [if_neg ht] at htest
        have hxk : (busRead cfg.regStatus s).pollK = s.pollK := by simp [busRead]
        have hn : 0 < n := by
          by_contra h0
          have := timedOut_testReading (s := busRead cfg.regStatus s) hT (by omega)
          rw [e0] at this
          exact ht this
        rw [pollLoop_again hr ht]
        exact ((hread.trans htest).trans
          (ih _ (hx.pollNow cfg) (by rw [pollNow_pollK]; omega) hn)).mono (by omega)

/-- The whole of a step that enters a mode. -/
theorem runs_enterMode {cfg : Config} {m : Mode} {here : Step} {yes no : State → State}
    (hseq : ∀ s, s.step = some here → sequence cfg s = enterModeInstant cfg m here yes no s)
    (hyes : ∀ st u s, yes (goto st u s) = yes s) (hno : ∀ st u s, no (goto st u s) = no s)
    (hT : cfg.timeoutUs < 2 ^ 32) (hT0 : 0 < cfg.timeoutUs) {s : State} (h : Running s) :
    Runs cfg (3 * cfg.timeoutUs + 3) (goto here .modeWrite s)
      (if (enterMode cfg m s).ok then yes (enterMode cfg m s) else no (enterMode cfg m s)) := by
  have hwrite := runs_busInstant (h.goto here .modeWrite)
    (transfer := fun s => goto here .pollStart (writeTransfer cfg cfg.regOpmode (modeVal m) s))
    ((hseq (goto here .modeWrite s) rfl).trans rfl) ((hseq (csAssert (goto here .modeWrite s)) rfl).trans rfl)
  change Runs cfg 2 _ (goto here .pollStart (busWrite cfg cfg.regOpmode (modeVal m) s)) at hwrite
  have hw := h.busWrite cfg cfg.regOpmode (modeVal m)
  have hstart : sequence cfg (goto here .pollStart (busWrite cfg cfg.regOpmode (modeVal m) s)) =
      goto here .pollRead (pollBegin m (busWrite cfg cfg.regOpmode (modeVal m) s)) := by
    rw [hseq (goto here .pollStart (busWrite cfg cfg.regOpmode (modeVal m) s)) rfl]
    simp only [enterModeInstant, goto_sub, pollBegin_goto, goto_goto]
  have hpoll := runs_poll hseq hyes hno hT cfg.timeoutUs _ (hw.pollBegin m) (by rw [pollBegin_pollK]; omega) hT0
  exact ((hwrite.trans (Runs.one (hw.goto here .pollStart) hstart)).trans hpoll).mono (by omega)

/-! ### The symbol loop -/

theorem setIdx_setIdx (i j : Fin 166) (s : State) : setIdx i (setIdx j s) = setIdx i s := rfl

theorem sequence_symPin (cfg : Config) (s : State) :
    sequence cfg (goto .s6 .symPin s) = goto .s6 .symHold (pinWrite .data (symbolAt s.fbuf s.idx) s) := rfl

theorem nextSymbol_of_lt {s : State} {i : Nat} (hi : s.idx.val = i) (hl : i + 1 < 166) :
    nextSymbol s = goto .s6 .symPin (setIdx ⟨i + 1, hl⟩ s) := by
  subst hi; rw [nextSymbol, dif_pos hl]

theorem nextSymbol_of_last {s : State} {i : Nat} (hi : s.idx.val = i) (hl : ¬ i + 1 < 166) :
    nextSymbol s = goto .s6 .gapPin s := by
  subst hi; rw [nextSymbol, dif_neg hl]

theorem nextSymbol_goto (st : Step) (u : Sub) (s : State) : nextSymbol (goto st u s) = nextSymbol s := by
  by_cases hl : s.idx.val + 1 < 166
  · rw [nextSymbol_of_lt (s := goto st u s) rfl hl, nextSymbol_of_lt rfl hl]; rfl
  · rw [nextSymbol_of_last (s := goto st u s) rfl hl, nextSymbol_of_last rfl hl]; rfl

theorem sequence_symHold (cfg : Config) (s : State) :
    sequence cfg (goto .s6 .symHold s) = nextSymbol (hold cfg.symbolUs s) :=
  (show sequence cfg (goto .s6 .symHold s) = nextSymbol (goto .s6 .symHold (hold cfg.symbolUs s)) from rfl).trans
    (nextSymbol_goto _ _ _)

theorem drop_finRange {i : Nat} (hi : i < 166) :
    (List.finRange 166).drop i = ⟨i, hi⟩ :: (List.finRange 166).drop (i + 1) := by
  rw [List.drop_eq_getElem_cons (by rw [List.length_finRange]; exact hi), List.getElem_finRange]; rfl

theorem sendSymbols_fbuf (cfg : Config) (f : Frame) (is : List (Fin 166)) (s : State) :
    (is.foldl (sendSymbol cfg f) s).fbuf = s.fbuf := by
  induction is generalizing s with
  | nil => rfl
  | cons i is ih => exact ih _

theorem sendSymbols_rep (cfg : Config) (f : Frame) (is : List (Fin 166)) (s : State) :
    (is.foldl (sendSymbol cfg f) s).rep = s.rep := by
  induction is generalizing s with
  | nil => rfl
  | cons i is ih => exact ih _

theorem sendRepetition_fbuf (cfg : Config) (f : Frame) (s : State) (k : Nat) :
    (sendRepetition cfg f s k).fbuf = s.fbuf := by
  rw [sendRepetition, hold_fbuf, pinWriteData_fbuf, sendSymbols_fbuf, setRep_fbuf]

theorem sendRepetition_rep (cfg : Config) (f : Frame) (s : State) (k : Nat) :
    (sendRepetition cfg f s k).rep = Fin.ofNat 8 k := by
  rw [sendRepetition, hold_rep, pinWriteData_rep, sendSymbols_rep, setRep_rep]

/-- From symbol `i` to the low write after the last symbol. -/
theorem runs_symbols (cfg : Config) (d : Nat) : ∀ (i : Nat) (hi : i < 166) (s : State), Running s → i + d = 166 →
    Runs cfg (2 * d) (goto .s6 .symPin (setIdx ⟨i, hi⟩ s))
      (goto .s6 .gapPin (((List.finRange 166).drop i).foldl (sendSymbol cfg s.fbuf) s)) := by
  induction d with
  | zero => intro i hi s _ e; omega
  | succ d ih =>
    intro i hi s h e
    have hpin := Runs.one ((h.setIdx ⟨i, hi⟩).goto .s6 .symPin) (sequence_symPin cfg _)
    have hhold := Runs.one (((h.setIdx ⟨i, hi⟩).pinWrite .data (symbolAt s.fbuf ⟨i, hi⟩)).goto .s6 .symHold)
      (sequence_symHold cfg _)
    rw [setIdx_fbuf, setIdx_idx] at hpin
    rw [← sendSymbol] at hhold
    have hidx : (sendSymbol cfg s.fbuf s ⟨i, hi⟩).idx.val = i := by
      rw [sendSymbol, hold_idx, pinWriteData_idx, setIdx_idx]
    have hfbuf : (sendSymbol cfg s.fbuf s ⟨i, hi⟩).fbuf = s.fbuf := by
      rw [sendSymbol, hold_fbuf, pinWriteData_fbuf, setIdx_fbuf]
    have hy : Running (sendSymbol cfg s.fbuf s ⟨i, hi⟩) := h.sendSymbol cfg _ _
    rw [drop_finRange hi, List.foldl_cons]
    by_cases hl : i + 1 < 166
    · rw [nextSymbol_of_lt hidx hl] at hhold
      have hrest := ih (i + 1) hl _ hy (by omega)
      rw [hfbuf] at hrest
      exact ((hpin.trans hhold).trans hrest).mono (by omega)
    · rw [nextSymbol_of_last hidx hl] at hhold
      have hnil : (List.finRange 166).drop (i + 1) = [] := by
        rw [List.drop_eq_nil_iff, List.length_finRange]; omega
      rw [hnil]
      exact (hpin.trans hhold).mono (by omega)

theorem nextRepetition_goto (cfg : Config) (st : Step) (u : Sub) (s : State) :
    nextRepetition cfg (goto st u s) = nextRepetition cfg s := by
  simp only [nextRepetition, goto_rep]; rfl

theorem sequence_gapPin (cfg : Config) (s : State) :
    sequence cfg (goto .s6 .gapPin s) = goto .s6 .gapHold (pinWrite .data false s) := rfl

theorem sequence_gapHold (cfg : Config) (s : State) :
    sequence cfg (goto .s6 .gapHold s) = nextRepetition cfg (hold cfg.gapUs s) :=
  (show sequence cfg (goto .s6 .gapHold s) = nextRepetition cfg (goto .s6 .gapHold (hold cfg.gapUs s)) from rfl).trans
    (nextRepetition_goto cfg _ _ _)

/-- The low write after a repetition, and the gap. -/
theorem runs_gap (cfg : Config) {y : State} (h : Running y) :
    Runs cfg 2 (goto .s6 .gapPin y) (nextRepetition cfg (hold cfg.gapUs (pinWrite .data false y))) :=
  (Runs.one (h.goto .s6 .gapPin) (sequence_gapPin cfg y)).trans
    (Runs.one ((h.pinWrite _ _).goto .s6 .gapHold) (sequence_gapHold cfg _))

/-- One repetition. -/
theorem runs_repetition (cfg : Config) (k : Nat) {s : State} (h : Running s) :
    Runs cfg 334 (goto .s6 .symPin (setIdx 0 (setRep (Fin.ofNat 8 k) s)))
      (nextRepetition cfg (sendRepetition cfg s.fbuf s k)) := by
  have hx := h.setRep (Fin.ofNat 8 k)
  have hsym := runs_symbols cfg 166 0 (by omega) (setRep (Fin.ofNat 8 k) s) hx (by omega)
  rw [List.drop_zero, setRep_fbuf] at hsym
  rw [sendRepetition]
  exact hsym.trans (runs_gap cfg (Running.sendSymbols cfg s.fbuf (List.finRange 166) hx))

/-- The repetitions from number `k` to the last. -/
theorem runs_repetitions {cfg : Config} (hr : cfg.reps ≤ 8) (d : Nat) : ∀ (k : Nat) (s : State), Running s →
    k + d = cfg.reps → 0 < d →
    Runs cfg (334 * d) (goto .s6 .symPin (setIdx 0 (setRep (Fin.ofNat 8 k) s)))
      (goto .s7 .modeWrite ((List.range' k d).foldl (sendRepetition cfg s.fbuf) s)) := by
  induction d with
  | zero => intro k s _ _ h; omega
  | succ d ih =>
    intro k s h e _
    have h1 := runs_repetition cfg k h
    have hrep : (sendRepetition cfg s.fbuf s k).rep.val = k := by
      rw [sendRepetition_rep]; exact Nat.mod_eq_of_lt (by omega)
    rw [List.range'_succ, List.foldl_cons]
    rcases Nat.eq_zero_or_pos d with hd | hd
    · rw [nextRepetition, if_neg (by omega)] at h1
      subst hd
      exact h1.mono (by omega)
    · rw [nextRepetition, if_pos (by omega), hrep] at h1
      have h2 := ih (k + 1) _ (h.sendRepetition cfg s.fbuf k) (by omega) hd
      rw [sendRepetition_fbuf] at h2
      exact (h1.trans h2).mono (by omega)

/-- The whole of step S6. -/
theorem runs_transmit {cfg : Config} (hr : cfg.reps ≤ 8) (hr0 : 0 < cfg.reps) {s : State} (h : Running s) :
    Runs cfg (334 * cfg.reps) (goto .s6 .symPin (setIdx 0 (setRep 0 s)))
      (goto .s7 .modeWrite (transmitFrame cfg s.fbuf s)) := by
  have := runs_repetitions hr cfg.reps 0 (setIdx 0 (setRep 0 s)) ((h.setRep 0).setIdx 0) (by omega) hr0
  rw [transmitFrame, List.range_eq_range']
  exact this

end Sys2Proof.Machine
end

