-- ==== Sys2Proof/Laws/Host.lean ====
section
/-! SUPPORT. What the host can do to an operation in progress: the sequencer does not look at the host's list, so words change nothing and a reset aborts (43 R191, 70 R251). -/

namespace Sys2Proof.Machine

/-- A part of the sequencer that does not look at the host's list. -/
def HostBlind (f : State → State) : Prop := ∀ h s, f (withHost h s) = withHost h (f s)

namespace HostBlind

theorem readTransfer (a : RegAddr) : HostBlind (readTransfer a) := by
  intro h s
  rcases s with ⟨⟩
  rename_i busIn _ _ _
  cases busIn <;> rfl

theorem pollBegin (m : Mode) : HostBlind (pollBegin m) := by
  intro h s
  rw [pollBegin_eq, pollBegin_eq]
  rcases s with ⟨⟩
  rename_i timeIn _
  cases timeIn <;> rfl

theorem pollNow (cfg : Config) : HostBlind (pollNow cfg) := by
  intro h s
  rw [pollNow_eq, pollNow_eq]
  rcases s with ⟨⟩
  rename_i timeIn _
  cases timeIn <;> rfl

theorem busInstant {f : State → State} (hf : HostBlind f) : HostBlind (busInstant f) := by
  intro h s
  simp only [Machine.busInstant]
  have e : (withHost h s).pinCs = s.pinCs := rfl
  simp only [e]
  split
  · rfl
  · exact hf h s

theorem writesInstant (cfg : Config) (ws : List (RegAddr × Byte)) (here : Step) {next : State → State}
    (hn : HostBlind next) : HostBlind (writesInstant cfg ws here next) := by
  intro h s
  have e : (withHost h s).sub = s.sub := rfl
  simp only [Machine.writesInstant, e]
  rcases ws[subIndex s.sub]? with _ | ⟨a, v⟩
  · exact hn h s
  · refine HostBlind.busInstant (f := fun s =>
      if subIndex s.sub + 1 < ws.length then goto here (.item (subIndex s.sub + 1)) (writeTransfer cfg a v s)
      else next (writeTransfer cfg a v s)) (fun h s => ?_) h s
    have e : (withHost h s).sub = s.sub := rfl
    simp only [e]
    split
    · rfl
    · exact hn h (writeTransfer cfg a v s)

theorem enterModeInstant (cfg : Config) (m : Mode) (here : Step) {yes no : State → State}
    (hy : HostBlind yes) (hn : HostBlind no) : HostBlind (enterModeInstant cfg m here yes no) := by
  intro h s
  have e : (withHost h s).sub = s.sub := rfl
  have hw : HostBlind (Machine.busInstant
      (fun s => goto here .pollStart (writeTransfer cfg cfg.regOpmode (modeVal m) s))) :=
    HostBlind.busInstant (fun _ _ => rfl)
  simp only [Machine.enterModeInstant, e]
  cases s.sub
  case pollStart => simp only [HostBlind.pollBegin m h s]; rfl
  case pollRead =>
    refine HostBlind.busInstant (f := fun s =>
      if modeReady (Machine.readTransfer cfg.regStatus s).rdata = true then
        yes (pollOk (Machine.readTransfer cfg.regStatus s))
      else goto here .pollTest (Machine.readTransfer cfg.regStatus s)) (fun h s => ?_) h s
    have e : (withHost h (Machine.readTransfer cfg.regStatus s)).rdata =
      (Machine.readTransfer cfg.regStatus s).rdata := rfl
    simp only [HostBlind.readTransfer cfg.regStatus h s, e]
    split
    · exact hy h (pollOk (Machine.readTransfer cfg.regStatus s))
    · rfl
  case pollTest =>
    have e : timedOut cfg (withHost h s).t0 (testReading cfg (withHost h s)) =
      timedOut cfg s.t0 (testReading cfg s) := rfl
    simp only [HostBlind.pollNow cfg h s, e]
    split
    · exact hn h (pollFail m (Machine.pollNow cfg s))
    · rfl
  all_goals exact hw h s

theorem beginFails : HostBlind beginFails := fun _ _ => rfl

theorem goto (st : Step) (u : Sub) : HostBlind (goto st u) := fun _ _ => rfl

end HostBlind

theorem stepB6_hostBlind (cfg : Config) : HostBlind (stepB6 cfg) := by
  intro h s
  simp only [stepB6]
  split
  · exact HostBlind.enterModeInstant cfg .standby .b6 (HostBlind.goto _ _) HostBlind.beginFails h s
  · rfl

theorem stepS6_hostBlind (cfg : Config) : HostBlind (stepS6 cfg) := by
  intro h s
  have e : (withHost h s).sub = s.sub := rfl
  have hs : HostBlind (fun s => nextSymbol (hold cfg.symbolUs s)) := fun h s => by
    by_cases hl : s.idx.val + 1 < 166
    · exact (nextSymbol_of_lt (s := withHost h (hold cfg.symbolUs s)) rfl hl).trans
        (congrArg (withHost h) (nextSymbol_of_lt (s := hold cfg.symbolUs s) rfl hl).symm)
    · exact (nextSymbol_of_last (s := withHost h (hold cfg.symbolUs s)) rfl hl).trans
        (congrArg (withHost h) (nextSymbol_of_last (s := hold cfg.symbolUs s) rfl hl).symm)
  have hr : HostBlind (fun s => nextRepetition cfg (hold cfg.gapUs s)) := fun h s => by
    have e : (hold cfg.gapUs (withHost h s)).rep = (hold cfg.gapUs s).rep := rfl
    simp only [nextRepetition, e]
    split <;> rfl
  simp only [stepS6, e]
  cases s.sub
  case symHold => exact hs h s
  case gapHold => exact hr h s
  all_goals rfl

/-- The sequencer does not look at the host's list. -/
theorem sequence_hostBlind (cfg : Config) : HostBlind (sequence cfg) := by
  intro h s
  have e : (withHost h s).step = s.step := rfl
  simp only [sequence, e]
  rcases s.step with _ | st
  · rfl
  cases st
  case b2 =>
    have e : (withHost h s).sub = s.sub := rfl
    simp only [stepB2, e]
    split <;> rfl
  case b4 =>
    refine HostBlind.busInstant (f := fun s => Machine.goto .b5 (.item 0) (recordId (Machine.readTransfer cfg.regVersion s)))
      (fun h s => ?_) h s
    simp only [HostBlind.readTransfer cfg.regVersion h s]
    rfl
  case b5 =>
    have e : (withHost h s).idSeen = s.idSeen := rfl
    simp only [stepB5, e]
    split <;> rfl
  case b6 => exact stepB6_hostBlind cfg h s
  case b7 => exact HostBlind.writesInstant cfg _ _ (HostBlind.goto _ _) h s
  case b8 => exact HostBlind.writesInstant cfg _ _ (HostBlind.goto _ _) h s
  case b9 => exact HostBlind.writesInstant cfg _ _ (HostBlind.goto _ _) h s
  case b10 => exact HostBlind.writesInstant cfg _ _ (HostBlind.goto _ _) h s
  case b11 => exact HostBlind.writesInstant cfg _ _ (HostBlind.goto _ _) h s
  case b12 => exact HostBlind.enterModeInstant cfg _ _ (HostBlind.goto _ _) HostBlind.beginFails h s
  case s2 =>
    have e : readyOut (withHost h s) = readyOut s := rfl
    simp only [stepS2, e]
    split <;> rfl
  case s3 =>
    have e : (lookupInto cfg (withHost h s).cmd (withHost h s)).lookup = (lookupInto cfg s.cmd s).lookup := rfl
    simp only [stepS3, e]
    split <;> rfl
  case s4 =>
    have e : (buildInto cfg (withHost h s).lookup (withHost h s)).built = (buildInto cfg s.lookup s).built := rfl
    simp only [stepS4, e]
    split <;> rfl
  case s5 => exact HostBlind.enterModeInstant cfg _ _ (fun _ _ => rfl) (HostBlind.goto _ _) h s
  case s6 => exact stepS6_hostBlind cfg h s
  case s7 => exact HostBlind.enterModeInstant cfg _ _ (HostBlind.goto _ _) (HostBlind.goto _ _) h s
  case s8 =>
    have e : (withHost h s).ok = s.ok := rfl
    simp only [stepS8, e]
    split <;> rfl
  all_goals rfl

/-- An instant without a reset is the silent host's instant, with the host's entry consumed (43 R191). -/
theorem tick_quiet (cfg : Config) {s : State} (h : ∀ rest, s.hostIn ≠ .reset :: rest) :
    tick cfg s = withHost s.hostIn.tail (tick cfg (withHost [] s)) := by
  rw [tick_sequence cfg h, tick_sequence cfg (s := withHost [] s) (fun _ => by simp [withHost])]
  exact sequence_hostBlind cfg s.hostIn.tail (passInstant (withHost [] s))

end Sys2Proof.Machine
end

