-- ==== Sys2Proof/Laws/PerInstr.lean ====
section
/-! SUPPORT. The family EncodingCarriesRow: an instruction's bytes carry the fixed bits of its row of spec/opcode_table.json, one lemma for each constructor. -/

namespace Sys2Proof.Laws.EncodingCarriesRow

/-- The row of spec/opcode_table.json: format width in bits, `match` and `mask`; none for a row of format INTERNAL. -/
def row : Instr → Option (Nat × BitVec 16 × BitVec 16)
  | .nop => some (8, 0x00, 0xFF)
  | .begin => some (8, 0x40, 0xFF)
  | .sendLightToggle => some (8, 0x80, 0xFF)
  | .sendFanToggle => some (8, 0x81, 0xFF)
  | .sendLightDown => some (8, 0x82, 0xFF)
  | .sendLightUp => some (8, 0x83, 0xFF)
  | .sendFan1 => some (8, 0x84, 0xFF)
  | .sendFan2 => some (8, 0x85, 0xFF)
  | .sendFan3 => some (8, 0x86, 0xFF)
  | .sendFan4 => some (8, 0x87, 0xFF)
  | .sendFan5 => some (8, 0x88, 0xFF)
  | .sendFan6 => some (8, 0x89, 0xFF)
  | .sendUndefined10 => some (8, 0x8A, 0xFF)
  | .sendUndefined11 => some (8, 0x8B, 0xFF)
  | .sendUndefined12 => some (8, 0x8C, 0xFF)
  | .sendUndefined13 => some (8, 0x8D, 0xFF)
  | .sendUndefined14 => some (8, 0x8E, 0xFF)
  | .sendUndefined15 => some (8, 0x8F, 0xFF)
  | .status => some (8, 0xC0, 0xFF)
  | .reservedRsv01 _ _ => some (8, 0x10, 0x30)
  | .reservedRsv10 _ _ => some (8, 0x20, 0x30)
  | .reservedRsv11 _ _ => some (8, 0x30, 0x30)
  | .reservedOp00Arg _ => some (8, 0x00, 0xF0)
  | .reservedOp01Arg _ => some (8, 0x40, 0xF0)
  | .reservedOp11Arg _ => some (8, 0xC0, 0xF0)
  | .busRead _ => some (16, 0x0000, 0x8000)
  | .busWrite _ _ => some (16, 0x8000, 0x8000)
  | .modeSleep => some (16, 0x8100, 0xFFFF)
  | .modeStandby => some (16, 0x8104, 0xFFFF)
  | .modeTransmit => some (16, 0x810C, 0xFFFF)
  | .catalogLookup _ | .buildFrame _ | .transmitFrame | .pinWrite _ _ | .hold _ => none
  | .enterMode _ | .waitModeReady _ | .resetPulse | .checkId | .configureRadio => none

/-- The bytes of an instruction as the table numbers them: a request word as it stands, a frame with byte 0 in bits 15..8. -/
def tableWord : List Byte → BitVec 16
  | [w] => w.zeroExtend 16
  | [b0, b1] => b0 ++ b1
  | _ => 0

/-- The instruction's bytes are as many as its row has, and carry the row's fixed bits; an internal operation has none. -/
def Statement (i : Instr) : Prop :=
  match row i with
  | none => encode i = []
  | some (nbits, pattern, mask) => 8 * (encode i).length = nbits ∧ tableWord (encode i) &&& mask = pattern

theorem nop : Statement .nop := ⟨rfl, by decide⟩
theorem begin : Statement .begin := ⟨rfl, by decide⟩
theorem sendLightToggle : Statement .sendLightToggle := ⟨rfl, by decide⟩
theorem sendFanToggle : Statement .sendFanToggle := ⟨rfl, by decide⟩
theorem sendLightDown : Statement .sendLightDown := ⟨rfl, by decide⟩
theorem sendLightUp : Statement .sendLightUp := ⟨rfl, by decide⟩
theorem sendFan1 : Statement .sendFan1 := ⟨rfl, by decide⟩
theorem sendFan2 : Statement .sendFan2 := ⟨rfl, by decide⟩
theorem sendFan3 : Statement .sendFan3 := ⟨rfl, by decide⟩
theorem sendFan4 : Statement .sendFan4 := ⟨rfl, by decide⟩
theorem sendFan5 : Statement .sendFan5 := ⟨rfl, by decide⟩
theorem sendFan6 : Statement .sendFan6 := ⟨rfl, by decide⟩
theorem sendUndefined10 : Statement .sendUndefined10 := ⟨rfl, by decide⟩
theorem sendUndefined11 : Statement .sendUndefined11 := ⟨rfl, by decide⟩
theorem sendUndefined12 : Statement .sendUndefined12 := ⟨rfl, by decide⟩
theorem sendUndefined13 : Statement .sendUndefined13 := ⟨rfl, by decide⟩
theorem sendUndefined14 : Statement .sendUndefined14 := ⟨rfl, by decide⟩
theorem sendUndefined15 : Statement .sendUndefined15 := ⟨rfl, by decide⟩
theorem status : Statement .status := ⟨rfl, by decide⟩

/-- A request word of a class with free bits carries the bits that its class fixes. -/
theorem requestWord_rsv (op rsv : BitVec 2) (arg : BitVec 4) :
    tableWord [requestWord op rsv arg] &&& 0x30 = (rsv.zeroExtend 16) <<< 4 := by revert op rsv arg; decide

theorem requestWord_high (op : BitVec 2) (arg : BitVec 4) :
    tableWord [requestWord op 0 arg] &&& 0xF0 = (op.zeroExtend 16) <<< 6 := by revert op arg; decide

theorem reservedRsv01 (op : BitVec 2) (arg : BitVec 4) : Statement (.reservedRsv01 op arg) :=
  ⟨rfl, requestWord_rsv op 1 arg⟩
theorem reservedRsv10 (op : BitVec 2) (arg : BitVec 4) : Statement (.reservedRsv10 op arg) :=
  ⟨rfl, requestWord_rsv op 2 arg⟩
theorem reservedRsv11 (op : BitVec 2) (arg : BitVec 4) : Statement (.reservedRsv11 op arg) :=
  ⟨rfl, requestWord_rsv op 3 arg⟩
theorem reservedOp00Arg (arg : BitVec 4) : Statement (.reservedOp00Arg arg) := ⟨rfl, requestWord_high 0 arg⟩
theorem reservedOp01Arg (arg : BitVec 4) : Statement (.reservedOp01Arg arg) := ⟨rfl, requestWord_high 1 arg⟩
theorem reservedOp11Arg (arg : BitVec 4) : Statement (.reservedOp11Arg arg) := ⟨rfl, requestWord_high 3 arg⟩

/-- The direction flag of a frame is bit 15 of its table word. -/
theorem frame_direction (write : Bool) (a : RegAddr) (v : Byte) :
    tableWord [frameByte0 write a, v] &&& 0x8000 = if write then 0x8000 else 0 := by
  have h : frameByte0 write a &&& 0x80 = if write then 0x80 else 0 := by revert write a; decide
  have e : (0x8000 : BitVec 16) = (0x80 : BitVec 8) ++ (0x00 : BitVec 8) := by decide
  have e' : tableWord [frameByte0 write a, v] &&& 0x8000 = (frameByte0 write a &&& 0x80) ++ (v &&& 0x00) := by
    rw [e, tableWord, BitVec.and_append]
  rw [e', h]
  cases write <;> simp

theorem busRead (a : RegAddr) : Statement (.busRead a) := ⟨rfl, frame_direction false a 0x00⟩
theorem busWrite (a : RegAddr) (v : Byte) : Statement (.busWrite a v) := ⟨rfl, frame_direction true a v⟩
theorem modeSleep : Statement .modeSleep := ⟨rfl, by decide⟩
theorem modeStandby : Statement .modeStandby := ⟨rfl, by decide⟩
theorem modeTransmit : Statement .modeTransmit := ⟨rfl, by decide⟩

theorem catalogLookup (c : BitVec 4) : Statement (.catalogLookup c) := rfl
theorem buildFrame (p : Option Payload) : Statement (.buildFrame p) := rfl
theorem transmitFrame : Statement .transmitFrame := rfl
theorem pinWrite (p : Pin) (l : Bool) : Statement (.pinWrite p l) := rfl
theorem hold (us : Nat) : Statement (.hold us) := rfl
theorem enterMode (m : Mode) : Statement (.enterMode m) := rfl
theorem waitModeReady (m : Mode) : Statement (.waitModeReady m) := rfl
theorem resetPulse : Statement .resetPulse := rfl
theorem checkId : Statement .checkId := rfl
theorem configureRadio : Statement .configureRadio := rfl

end Sys2Proof.Laws.EncodingCarriesRow
end

