-- ==== Sys2Proof/Laws/Poll.lean ====
section
/-! SUPPORT. The law of the poll loop (42 R161): everything a poll can do. -/

namespace Sys2Proof.Machine

open Sys2Proof.Safety

theorem pollEvents_cons (cfg : Config) (p : Byte × Time) (ps : List (Byte × Time)) :
    pollEvents cfg (p :: ps) = .busR cfg.regStatus p.1 :: .time p.2 :: pollEvents cfg ps := rfl

/-- A read and the time test after it, whole. -/
theorem pollRound_eq (cfg : Config) (s : State) : pollNow cfg (busRead cfg.regStatus s) = { s with
    rdata := (busRead cfg.regStatus s).rdata, pinCs := true, pollK := s.pollK + 1,
    trace := s.trace ++ [.busR cfg.regStatus (busRead cfg.regStatus s).rdata,
      .time (testReading cfg (busRead cfg.regStatus s))],
    busIn := (pollNow cfg (busRead cfg.regStatus s)).busIn,
    busDraws := (pollNow cfg (busRead cfg.regStatus s)).busDraws,
    timeIn := (pollNow cfg (busRead cfg.regStatus s)).timeIn,
    timeDraws := (pollNow cfg (busRead cfg.regStatus s)).timeDraws } := by
  rw [pollNow_eq, busRead_eq]; simp

/-- What a poll loop with iterations to spare has done when it ends in `t`: `ps` are the answers that were not ready, each
with the reading after it, before the timeout and under the time-base law; then a ready answer, or an answer that is not ready
and a reading at or past the timeout. -/
def PollEnds (cfg : Config) (m : Mode) (s t : State) : Prop :=
  ∃ ps : List (Byte × Time),
    (∀ p ∈ ps, p.1.getLsbD 7 = false ∧ (p.2 - s.t0).toNat < cfg.timeoutUs) ∧
    (∀ (k : Nat) (h : k < ps.length), pollFloor cfg (s.pollK + k + 1) ≤ (ps[k].2 - s.t0).toNat) ∧
    ((∃ v : Byte, v.getLsbD 7 = true ∧ t = { s with
        ok := true, rdata := v, pinCs := true, pollK := s.pollK + ps.length,
        trace := s.trace ++ pollEvents cfg ps ++ [.busR cfg.regStatus v],
        busIn := t.busIn, busDraws := t.busDraws, timeIn := t.timeIn, timeDraws := t.timeDraws }) ∨
      (∃ (v : Byte) (r : Time), v.getLsbD 7 = false ∧ cfg.timeoutUs ≤ (r - s.t0).toNat ∧ t = { s with
        ok := false, rstate := .faulted, err := timeoutCode m, rdata := v, pinCs := true,
        pollK := s.pollK + ps.length + 1, trace := s.trace ++ pollEvents cfg (ps ++ [(v, r)]),
        busIn := t.busIn, busDraws := t.busDraws, timeIn := t.timeIn, timeDraws := t.timeDraws }))

/-- The time test after a read keeps the law's floor. -/
theorem pollFloor_le_testReading (cfg : Config) (s : State) :
    pollFloor cfg (s.pollK + 1) ≤ (testReading cfg (busRead cfg.regStatus s) - s.t0).toNat := by
  have e0 : (busRead cfg.regStatus s).t0 = s.t0 := by simp [busRead]
  have e1 : (busRead cfg.regStatus s).pollK = s.pollK := by simp [busRead]
  rw [testReading, e0, e1]
  exact le_elapsed_lawfulReading cfg _ _ _

/-- Everything a poll loop can do. -/
theorem pollLoop_ends {cfg : Config} {m : Mode} (hT : cfg.timeoutUs < 2 ^ 32) (n : Nat) :
    ∀ s : State, s.pollK + n = cfg.timeoutUs → 0 < n → PollEnds cfg m s (pollLoop cfg m n s) := by
  induction n with
  | zero => intro s _ h; omega
  | succ n ih =>
    intro s hk _
    have e0 : (busRead cfg.regStatus s).t0 = s.t0 := by simp [busRead]
    by_cases hr : modeReady (busRead cfg.regStatus s).rdata = true
    · refine ⟨[], by simp, by simp, .inl ⟨_, hr, ?_⟩⟩
      rw [pollLoop_ready hr, busRead_eq]
      simp [pollOk, pollEvents]
    · have hr' : (busRead cfg.regStatus s).rdata.getLsbD 7 = false := by simpa [modeReady] using hr
      by_cases ht : timedOut cfg s.t0 (testReading cfg (busRead cfg.regStatus s)) = true
      · refine ⟨[], by simp, by simp, .inr ⟨_, testReading cfg (busRead cfg.regStatus s), hr', ?_, ?_⟩⟩
        · rw [timedOut, decide_eq_true_eq] at ht; exact ht
        · rw [pollLoop_timedOut hr ht, busRead_eq, pollNow_eq]
          simp [pollFail, pollEvents]
      · have hn : 0 < n := by
          by_contra h0
          have := timedOut_testReading (s := busRead cfg.regStatus s) hT (by simp [busRead]; omega)
          rw [e0] at this
          exact ht this
        have hlt : (testReading cfg (busRead cfg.regStatus s) - s.t0).toNat < cfg.timeoutUs := by
          rw [timedOut, decide_eq_true_eq] at ht; exact Nat.lt_of_not_le ht
        have ht0 : (pollNow cfg (busRead cfg.regStatus s)).t0 = s.t0 := by simp [busRead]
        have hpk : (pollNow cfg (busRead cfg.regStatus s)).pollK = s.pollK + 1 := by simp [busRead]
        rw [pollLoop_again hr ht]
        obtain ⟨ps, h1, h2, h3⟩ := ih (pollNow cfg (busRead cfg.regStatus s)) (by rw [hpk]; omega) hn
        simp only [ht0, hpk] at h1 h2 h3
        refine ⟨((busRead cfg.regStatus s).rdata, testReading cfg (busRead cfg.regStatus s)) :: ps, ?_, ?_, ?_⟩
        · intro p hp
          rcases List.mem_cons.1 hp with rfl | hp
          · exact ⟨hr', hlt⟩
          · exact h1 p hp
        · intro k hk'
          cases k with
          | zero => exact pollFloor_le_testReading cfg s
          | succ k =>
            have := h2 k (by simpa using hk')
            rw [show s.pollK + 1 + k + 1 = s.pollK + (k + 1) + 1 by omega] at this
            simpa using this
        · generalize pollLoop cfg m n (pollNow cfg (busRead cfg.regStatus s)) = z at h3 ⊢
          have hround := pollRound_eq cfg s
          generalize pollNow cfg (busRead cfg.regStatus s) = w at hround h3
          rcases h3 with ⟨v, hv, h3⟩ | ⟨v, r, hv, hvr, h3⟩
          · refine .inl ⟨v, hv, ?_⟩
            rw [h3, hround]
            simp [pollEvents_cons]; omega
          · refine .inr ⟨v, r, hv, hvr, ?_⟩
            rw [h3, hround]
            simp [pollEvents_cons]; omega

/-- Everything WAIT_MODE_READY can do, from its first reading (42 R161). -/
theorem waitModeReady_ends {cfg : Config} (hc : configWf cfg = true) (m : Mode) (s : State) :
    PollEnds cfg m (pollBegin m s) (waitModeReady cfg m s) := by
  obtain ⟨hT0, hT, -, -⟩ := configWf_bounds hc
  exact pollLoop_ends hT cfg.timeoutUs (pollBegin m s) (by rw [pollBegin_pollK]; omega) hT0

end Sys2Proof.Machine
end

