-- ==== Sys2Proof/Laws/Transmit.lean ====
section
/-! SUPPORT. The law of the symbol transmitter: the whole state that symbols and repetitions leave (41 R130). -/

namespace Sys2Proof.Machine

open Sys2Proof.Safety

/-- The events of some symbols of a frame. -/
theorem sendSymbols_eq (cfg : Config) (f : Frame) (is : List (Fin 166)) (j : Fin 166) (s : State) :
    (is ++ [j]).foldl (sendSymbol cfg f) s = { s with
      idx := j, pinData := symbolAt f j,
      trace := s.trace ++
        (is ++ [j]).flatMap (fun i => [.pin .data (symbolAt f i), .hold cfg.symbolUs]) } := by
  induction is generalizing s with
  | nil => rw [List.nil_append, List.foldl_cons, List.foldl_nil, sendSymbol_eq]; rfl
  | cons i is ih =>
    rw [List.cons_append, List.foldl_cons, ih, sendSymbol_eq, List.flatMap_cons, ← List.append_assoc]

theorem finRange_eq_concat : List.finRange 166 = (List.finRange 165).map Fin.castSucc ++ [165] := by
  rw [List.finRange_succ_last]; rfl

/-- The events of all symbols, position by position, are those of the frame's list of symbols. -/
theorem flatMap_symbols (cfg : Config) (f : Frame) :
    (List.finRange 166).flatMap (fun i => [.pin .data (symbolAt f i), .hold cfg.symbolUs]) =
      f.toList.flatMap (fun l => [Event.pin .data l, .hold cfg.symbolUs]) := by
  have h : f.toList = (List.finRange 166).map (symbolAt f) := by
    apply List.ext_getElem
    · simp
    · intro i h1 h2; simp [symbolAt]
  rw [h, List.flatMap_map]

/-- One repetition, whole. -/
theorem sendRepetition_eq (cfg : Config) (f : Frame) (s : State) (k : Nat) : sendRepetition cfg f s k = { s with
    rep := Fin.ofNat 8 k, idx := 165, pinData := false, trace := s.trace ++ repetitionEvents cfg f } := by
  rw [sendRepetition, repetitionEvents, ← flatMap_symbols, finRange_eq_concat, sendSymbols_eq]
  simp only [hold, pinWrite, setPin, emit, setRep, List.append_assoc]
  rfl

/-- The repetitions up to number `n`, whole. -/
theorem sendRepetitions_eq (cfg : Config) (f : Frame) (n : Nat) (s : State) :
    (List.range (n + 1)).foldl (sendRepetition cfg f) s = { s with
      rep := Fin.ofNat 8 n, idx := 165, pinData := false,
      trace := s.trace ++ (List.replicate (n + 1) (repetitionEvents cfg f)).flatten } := by
  induction n with
  | zero =>
    rw [List.range_succ, List.range_zero, List.nil_append, List.foldl_cons, List.foldl_nil, sendRepetition_eq,
      List.replicate_one, List.flatten_singleton]
  | succ n ih =>
    rw [List.range_succ, List.foldl_append, ih, List.foldl_cons, List.foldl_nil, sendRepetition_eq,
      List.replicate_succ' (n := n + 1), List.flatten_append, List.flatten_singleton, ← List.append_assoc]

end Sys2Proof.Machine
end

