-- ==== Sys2Proof/Machine/Program.lean ====
section
/-! DEFINITION. The host's side of a program (30 R85, R97): the names of the commands, the lines of a program, and the run of a program line by line. -/

namespace Sys2Proof.Machine

/-- The ten commands, by name (30 R85). -/
inductive Command where
  | lightToggle | fanToggle | lightDown | lightUp | fan1 | fan2 | fan3 | fan4 | fan5 | fan6
  deriving DecidableEq, Repr

/-- The code of a command (30 R85). -/
def commandCode : Command → BitVec 4
  | .lightToggle => 0x0
  | .fanToggle => 0x1
  | .lightDown => 0x2
  | .lightUp => 0x3
  | .fan1 => 0x4
  | .fan2 => 0x5
  | .fan3 => 0x6
  | .fan4 => 0x7
  | .fan5 => 0x8
  | .fan6 => 0x9

/-- A line of a host program (30 R97). -/
inductive HostLine where
  /-- `NOP` -/
  | nop
  /-- `BEGIN` -/
  | begin
  /-- `SEND <name>` -/
  | sendName (c : Command)
  /-- `SEND #<n>` -/
  | sendCode (c : BitVec 4)
  /-- `STATUS` -/
  | status
  /-- `.word 0x<hh>`: any word, reserved ones included -/
  | word (w : Byte)
  /-- `RESET`: the reset input, not a request word -/
  | reset
  deriving DecidableEq, Repr

/-- What the host does for a line (30 R97): the words 0x00, 0x40, 0x80 + code, 0xC0, or the reset input. `SEND <name>` stands
for `SEND #<code of name>`. -/
def hostLine : HostLine → HostIn
  | .nop => .word (requestWord 0 0 0)
  | .begin => .word (requestWord 1 0 0)
  | .sendName c => .word (sendWord (commandCode c))
  | .sendCode c => .word (sendWord c)
  | .status => .word (requestWord 3 0 0)
  | .word w => .word w
  | .reset => .reset

/-- A line is presented to the engine, before what the host does after it, and carried out. -/
def runLine (l : HostLine) (s : State) : Host.Outcome State Fault Refusal :=
  step { s with hostIn := hostLine l :: s.hostIn }

/-- A program: each line is presented after the operation of the line before has ended (30 R97). -/
def runLines : List HostLine → State → Host.Outcome State Fault Refusal
  | [], s => .next s
  | l :: ls, s =>
    match runLine l s with
    | .next t => runLines ls t
    | .fault f => .fault f
    | .refused x => .refused x

end Sys2Proof.Machine
end

