-- ==== Sys2Proof/Tests/Slice0.lean ====
section
/-! SUPPORT. Our own tests, with expected results from spec/95_test_vectors.md and the rules' own tables, and a witness for every statement that has hypotheses. -/

namespace Sys2Proof.Tests

open Sys2Proof.Machine Sys2Proof.Safety

/-! ### Small states and the vectors' test configuration -/

/-- The reset state with the transceiver's answers and the time base's readings given. -/
def engine (answers : List Byte) (readings : List Time) : State :=
  { State.reset with busIn := answers, timeIn := readings }

/-- A block that is READY after a BEGIN, `READY/0/24/00` in the vectors' notation. -/
def readyEngine (answers : List Byte) (readings : List Time) : State :=
  { engine answers readings with rstate := .ready, idSeen := 0x24, radioMode := some 0x00 }

/-- The vectors' test configuration TC, with T_POLL_MIN_US = 1000 as in V-POL-7. -/
def tc : Config :=
  { Config.hw with
    syncPhrase := Vector.replicate 82 false
    payloads := Vector.ofFn (fun c => Vector.ofFn (fun i => decide (i.val ≤ c.val)))
    tPollMinPred := 999, symbolTolUs := 0 }

/-- What the vectors write after a trace: `rstate/err/id_seen/radio_mode`, and `result`. -/
def summary (s : State) : Readiness × ErrCode × Byte × Option Byte × Bool :=
  (s.rstate, s.err, s.idSeen, s.radioMode, s.result)

/-- One field of an instruction's next state. -/
def after {α : Type} (view : State → α) (i : Instr) (s : State) : Option α :=
  match exec i s with
  | .next t => some (view t)
  | _ => none

/-! ### WellFormed refuses -/

theorem test_wf_reserved_arg_zero : (Instr.reservedOp00Arg 0).wf = false ∧ (Instr.reservedOp01Arg 0).wf = false ∧
    (Instr.reservedOp11Arg 0).wf = false ∧ (Instr.reservedOp11Arg 1).wf = true := by decide

theorem test_wf_mode_writes : (Instr.busWrite 0x01 0x00).wf = false ∧ (Instr.busWrite 0x01 0x04).wf = false ∧
    (Instr.busWrite 0x01 0x0C).wf = false ∧ (Instr.busWrite 0x01 0x05).wf = true ∧
    (Instr.busWrite 0x02 0x04).wf = true := by decide

theorem test_wf_hold_zero : (Instr.hold 0).wf = false ∧ (Instr.hold 1).wf = true := by decide

/-! ### Decoding, from V-DEC-1 and the tables of 30 R81, R85, R90 -/

theorem test_decode_control : decode [0x00] = .ok .nop ∧ decode [0x40] = .ok .begin ∧ decode [0xC0] = .ok .status := by
  decide

theorem test_decode_send : decode [0x80] = .ok .sendLightToggle ∧ decode [0x81] = .ok .sendFanToggle ∧
    decode [0x82] = .ok .sendLightDown ∧ decode [0x83] = .ok .sendLightUp ∧ decode [0x84] = .ok .sendFan1 ∧
    decode [0x85] = .ok .sendFan2 ∧ decode [0x86] = .ok .sendFan3 ∧ decode [0x87] = .ok .sendFan4 ∧
    decode [0x88] = .ok .sendFan5 ∧ decode [0x89] = .ok .sendFan6 := by decide

theorem test_decode_send_undefined : decode [0x8A] = .ok .sendUndefined10 ∧ decode [0x8B] = .ok .sendUndefined11 ∧
    decode [0x8C] = .ok .sendUndefined12 ∧ decode [0x8D] = .ok .sendUndefined13 ∧
    decode [0x8E] = .ok .sendUndefined14 ∧ decode [0x8F] = .ok .sendUndefined15 := by decide

theorem test_decode_reserved : decode [0x01] = .ok (.reservedOp00Arg 0x1) ∧ decode [0x0F] = .ok (.reservedOp00Arg 0xF) ∧
    decode [0x10] = .ok (.reservedRsv01 0 0) ∧ decode [0x3F] = .ok (.reservedRsv11 0 0xF) ∧
    decode [0x41] = .ok (.reservedOp01Arg 0x1) ∧ decode [0x50] = .ok (.reservedRsv01 1 0) ∧
    decode [0x90] = .ok (.reservedRsv01 2 0) ∧ decode [0xB5] = .ok (.reservedRsv11 2 5) ∧
    decode [0xC1] = .ok (.reservedOp11Arg 0x1) ∧ decode [0xE7] = .ok (.reservedRsv10 3 7) ∧
    decode [0xFF] = .ok (.reservedRsv11 3 0xF) := by decide

theorem test_decode_frames : decode [0x27, 0x00] = .ok (.busRead 0x27) ∧ decode [0x7F, 0xAA] = .ok (.busRead 0x7F) ∧
    decode [0x82, 0x68] = .ok (.busWrite 0x02 0x68) ∧ decode [0x81, 0x05] = .ok (.busWrite 0x01 0x05) ∧
    decode [0x81, 0x00] = .ok .modeSleep ∧ decode [0x81, 0x04] = .ok .modeStandby ∧
    decode [0x81, 0x0C] = .ok .modeTransmit := by decide

theorem test_decode_rejects : decode [] = .error .empty ∧ decode [0x40, 0x00, 0x00] = .error (.tooLong 3) := by decide

theorem test_decode_table_words : decodeTableWord 8 0x85 = some .sendFan2 ∧ decodeTableWord 16 0x810C = some .modeTransmit ∧
    decodeTableWord 16 0x2700 = some (.busRead 0x27) ∧ decodeTableWord 24 0 = none := by decide

theorem test_encode_internal : encode (.catalogLookup 5) = [] ∧ encode (.buildFrame none) = [] ∧
    encode .transmitFrame = [] ∧ encode (.pinWrite .data true) = [] ∧ encode (.hold 300) = [] ∧
    encode (.enterMode .sleep) = [] ∧ encode (.waitModeReady .sleep) = [] ∧ encode .resetPulse = [] ∧
    encode .checkId = [] ∧ encode .configureRadio = [] := by decide

/-! ### One step of each host operation, from V-BEG, V-SND, V-STA -/

/-- V-BEG-1, the 22 events after `Reset`. -/
theorem test_begin_success_trace : after State.trace .begin (engine [0x24, 0x80, 0x80] [20000, 20100]) =
    some [.reset, .req 0x40, .pin .reset true, .hold 100, .pin .reset false, .hold 5000, .busR 0x10 0x24,
      .busW 0x01 0x04, .time 20000, .busR 0x27 0x80, .busW 0x02 0x68, .busW 0x07 0x6C, .busW 0x08 0x7A, .busW 0x09 0xE1,
      .busW 0x03 0x25, .busW 0x04 0x80, .busW 0x11 0x5F, .busW 0x13 0x1A, .busW 0x26 0x07, .busW 0x01 0x00,
      .time 20100, .busR 0x27 0x80, .done .begin true] := by decide +kernel

/-- V-BEG-5: a failing identification check leaves READY. -/
theorem test_begin_id_mismatch : after summary .begin (readyEngine [0x00] []) =
    some (.ready, .idMismatch, 0x00, some 0x00, false) := by decide +kernel

/-- V-SND-2, from reset. -/
theorem test_send_not_ready : after summary .sendFan2 (engine [] []) =
    some (.uninit, .notReady, 0x00, none, false) := by decide +kernel

/-- V-SND-3: `Req(8C) Done(SEND,0)`, `READY/6/24/00`. -/
theorem test_send_undefined_code : after State.trace .sendUndefined12 (readyEngine [] []) =
    some [.reset, .req 0x8C, .done .send false] ∧
    after summary .sendUndefined12 (readyEngine [] []) = some (.ready, .unknownCmd, 0x24, some 0x00, false) := by
  decide +kernel

/-- V-STA-1. -/
theorem test_status_ready : after State.trace .status (readyEngine [] []) =
    some [.reset, .req 0xC0, .done .status true] := by decide +kernel

/-- V-STA-1 on a FAULTED block: `err` unchanged. -/
theorem test_status_faulted :
    after summary .status { engine [] [] with rstate := .faulted, err := .timeoutSleep } =
      some (.faulted, .timeoutSleep, 0x00, none, false) := by decide +kernel

/-- V-DEC-2: ignored words. -/
theorem test_ignored_words : after State.trace (.reservedOp01Arg 1) (readyEngine [] []) = some [.reset] ∧
    after State.trace .nop (readyEngine [] []) = some [.reset] := by decide +kernel

/-- V-DEC-2, V-SND-8: a request while busy. -/
theorem test_busy_drop : after State.trace .status { engine [] [] with busy := true, op := .send, step := some .s6 } =
    some [.reset] := by decide +kernel

/-- V-RST-3: reset during BEGIN's Standby poll, after `BusW(01,04) Time(0) BusR(27,00)` (12 instants): no `Done`. -/
theorem test_reset_during_poll :
    after State.trace .begin
      { readyEngine [0x24, 0x00] [0] with hostIn := List.replicate 12 .idle ++ [.reset] } =
      some [.reset, .req 0x40, .pin .reset true, .hold 100, .pin .reset false, .hold 5000, .busR 0x10 0x24,
        .busW 0x01 0x04, .time 0, .busR 0x27 0x00, .reset] := by decide +kernel

/-! ### One step of each bus frame and internal operation -/

theorem test_bus_read : after State.trace (.busRead 0x27) (engine [0x80] []) = some [.reset, .busR 0x27 0x80] ∧
    after State.rdata (.busRead 0x27) (engine [0x80] []) = some 0x80 := by decide

theorem test_bus_write : after State.radioMode (.busWrite 0x02 0x68) (engine [] []) = some none ∧
    after State.radioMode (.busWrite 0x01 0x05) (engine [] []) = some (some 0x05) := by decide

theorem test_mode_writes : after State.radioMode .modeSleep (engine [] []) = some (some 0x00) ∧
    after State.radioMode .modeStandby (engine [] []) = some (some 0x04) ∧
    after State.trace .modeTransmit (engine [] []) = some [.reset, .busW 0x01 0x0C] := by decide

/-- V-CAT-1, the boundary between codes 9 and 10. -/
theorem test_catalog_boundary : (catalogLookup tc 9).isSome = true ∧ catalogLookup tc 10 = none ∧
    catalogLookup tc 15 = none := by decide

/-- V-FRM-2 and V-FRM-3 under TC: FAN_2's frame has ones at the preamble's multiples of 4 and at 115 to 120. -/
theorem test_frame_of_fan2 : ∀ i : Fin 166,
    symbolAt (frameOf tc tc.payloads[5]) i = (decide (i.val ≤ 32 ∧ i.val % 4 = 0) || decide (115 ≤ i.val ∧ i.val ≤ 120)) := by
  decide +kernel

/-- V-FRM-4 under TC: FAN_2 and FAN_3 differ at position 121 only. -/
theorem test_frames_differ : ∀ i : Fin 166,
    (symbolAt (frameOf tc tc.payloads[5]) i == symbolAt (frameOf tc tc.payloads[6]) i) = (i != 121) := by decide +kernel

theorem test_pin_write : after State.pinData (.pinWrite .data true) (engine [] []) = some true ∧
    after State.trace (.pinWrite .reset false) (engine [] []) = some [.reset, .pin .reset false] := by decide

theorem test_hold : after State.trace (.hold 300) (engine [] []) = some [.reset, .hold 300] := by decide

/-- 41 R130, R133: the first events of a repetition, whose preamble starts high. -/
theorem test_repetition_start :
    (transmitEvents tc (frameOf tc tc.payloads[5])).take 5 =
      [.pin .data true, .hold 300, .pin .data false, .hold 300, .pin .data false] := by decide +kernel

/-- 41 R134: what stands after the 166 symbols of a repetition. -/
theorem test_repetition_end :
    ((transmitEvents tc (frameOf tc tc.payloads[5])).drop 330).take 5 =
      [.pin .data false, .hold 300, .pin .data false, .hold 8800, .pin .data true] := by decide +kernel

/-- 42 R175. -/
theorem test_reset_pulse : after State.trace .resetPulse (engine [] []) =
    some [.reset, .pin .reset true, .hold 100, .pin .reset false, .hold 5000] := by decide

theorem test_check_id : after State.ok .checkId (engine [0x24] []) = some true ∧
    after State.ok .checkId (engine [0x25] []) = some false ∧
    after State.idSeen .checkId (engine [0xFF] []) = some 0xFF := by decide

/-- V-POL-2: only bit 7 counts. -/
theorem test_poll_bit_seven : (waitModeReady tc .sleep (engine [0xFF] [0])).ok = true ∧
    (waitModeReady { tc with tPollMinPred := 49 } .sleep (engine [0x7F, 0x80] [0, 50])).trace =
      [.reset, .time 0, .busR 0x27 0x7F, .time 50, .busR 0x27 0x80] := by decide +kernel

/-- V-POL-4: 9999 continues, 10000 fails. -/
theorem test_poll_boundary :
    (waitModeReady tc .transmit (engine [0, 0, 0] [0, 4000, 9999, 10000])).trace =
      [.reset, .time 0, .busR 0x27 0, .time 4000, .busR 0x27 0, .time 9999, .busR 0x27 0, .time 10000] ∧
    (waitModeReady tc .transmit (engine [0, 0, 0] [0, 4000, 9999, 10000])).err = .timeoutTransmit := by decide +kernel

/-- V-POL-5: the readings wrap. -/
theorem test_poll_wrap :
    (waitModeReady tc .sleep (engine [0, 0] [4294963200, 4095, 5904])).trace =
      [.reset, .time 4294963200, .busR 0x27 0, .time 4095, .busR 0x27 0, .time 5904] := by decide +kernel

/-- V-POL-6: a read that shows ready ends the poll whatever the time. -/
theorem test_poll_ready_late : (waitModeReady tc .sleep (engine [0, 0x80] [0, 9000])).ok = true := by decide +kernel

/-- V-POL-7: readings exactly T_POLL_MIN_US apart give ten reads; the law raises readings that do not advance to them. -/
theorem test_poll_ten_reads :
    ((waitModeReady tc .sleep (engine (List.replicate 10 0) (List.replicate 11 0))).trace.countP (isStatusRead tc)) = 10 ∧
    (waitModeReady tc .sleep (engine (List.replicate 10 0) (List.replicate 11 0))).trace.getLast? = some (.time 10000) := by
  decide +kernel

theorem test_enter_mode : after State.trace (.enterMode .transmit) (engine [0x80] [7]) =
    some [.reset, .busW 0x01 0x0C, .time 7, .busR 0x27 0x80] := by decide +kernel

theorem test_wait_mode_ready : after State.pmode (.waitModeReady .standby) (engine [0x80] [7]) = some .standby := by
  decide +kernel

/-- 42 R177's example. -/
theorem test_configure_radio : after State.trace .configureRadio (engine [0x80] [7]) =
    some [.reset, .busW 0x02 0x68, .busW 0x07 0x6C, .busW 0x08 0x7A, .busW 0x09 0xE1, .busW 0x03 0x25, .busW 0x04 0x80,
      .busW 0x11 0x5F, .busW 0x13 0x1A, .busW 0x26 0x07, .busW 0x01 0x00, .time 7, .busR 0x27 0x80] := by decide +kernel

/-! ### Configurations, from V-CFG-1 and V-CFG-2 -/

theorem test_frequency_words : freqWord Config.hw = 7109345 ∧ freqWord { Config.hw with fTargetHz := 868000000 } = 0xD90000 ∧
    freqWord { Config.hw with fTargetHz := 915000000 } = 0xE4C000 := by decide

theorem test_bitrate_words : bitrateWord Config.hw = 9600 ∧ bitrateWord { Config.hw with bitrateBps := 489 } = 0xFF9F ∧
    bitrateWord { Config.hw with bitrateBps := 32000000 } = 1 := by decide

/-- 92 D7, D9: PA_WRITES follow REG_PALEVEL and REG_OCP. -/
theorem test_pa_writes : Config.hw.paWrites = [(0x11, 0x5F), (0x13, 0x1A)] ∧
    { Config.hw with regPalevel := 0x12, regOcp := 0x14 }.paWrites = [(0x12, 0x5F), (0x14, 0x1A)] := by decide

theorem test_ill_formed_refused : configWf { Config.hw with fTargetHz := 1024000000 } = false ∧
    configWf { Config.hw with bitrateBps := 488 } = false ∧ configWf { Config.hw with bitrateBps := 32000001 } = false ∧
    configWf { Config.hw with bitrateBps := 0 } = false ∧ configWf { Config.hw with reps := 0 } = false ∧
    configWf { Config.hw with regFrfMsb := 0x7E } = false ∧ configWf { Config.hw with regFrfMsb := 0x7D } = true := by
  decide

/-! ### Steps through the host's interface -/

/-- One field of the state after a step. -/
def stepped {α : Type} (view : State → α) (s : State) : Option α :=
  match step s with
  | .next t => some (view t)
  | _ => none

/-- The word placed for the fetch runs as the first instruction after reset (30 R97: STATUS is 0xC0). -/
theorem test_step_status : stepped State.trace (State.reset.withFetchWord 8 0xC0) =
    some [.reset, .req 0xC0, .done .status false] := by decide +kernel

/-- 30 R92: REG_DATAMODUL's write is the pair 0x82, 0x68. -/
theorem test_step_frame : stepped State.trace (State.reset.withFetchWord 16 0x8268) =
    some [.reset, .busW 0x02 0x68] := by decide +kernel

/-- 30 R97: `SEND FAN_2` is 0x85 and `SEND #12` is 0x8C. -/
theorem test_host_lines : hostLine (.sendName .fan2) = .word 0x85 ∧ hostLine (.sendCode 12) = .word 0x8C ∧
    hostLine .begin = .word 0x40 ∧ hostLine .status = .word 0xC0 ∧ hostLine .reset = .reset := by decide

/-- V-SND-2 as a program: a SEND from reset, then a STATUS. -/
theorem test_host_program : (match runLines [.sendName .fan2, .status] State.reset with
    | .next t => t.trace
    | _ => []) = [.reset, .req 0x85, .done .send false, .req 0xC0, .done .status false] := by decide +kernel

/-! ### Witnesses: concrete states and operands that meet the hypotheses of the statements -/

theorem witness_DecodeEncodeRoundTrip : (Instr.busWrite 0x7F 0xFF).wf = true ∧ (Instr.busWrite 0x7F 0xFF).hasEncoding = true ∧
    (Instr.reservedRsv11 3 15).wf = true ∧ (Instr.reservedRsv11 3 15).hasEncoding = true ∧
    (Instr.hold 1).wf = true ∧ (Instr.hold 1).hasEncoding = false := by decide

theorem witness_RequestWordsDecodeInOrder :
    (0x10 : Byte).extractLsb' 4 2 ≠ 0 ∧ (0xFF : Byte).extractLsb' 4 2 ≠ 0 ∧
    ((0x00 : Byte).extractLsb' 4 2 = 0 ∧ (0x00 : Byte).extractLsb' 0 4 = 0 ∧ (0x00 : Byte).extractLsb' 6 2 = 0) ∧
    ((0xCF : Byte).extractLsb' 4 2 = 0 ∧ (0xCF : Byte).extractLsb' 0 4 ≠ 0 ∧ (0xCF : Byte).extractLsb' 6 2 ≠ 2) ∧
    ((0x40 : Byte).extractLsb' 4 2 = 0 ∧ (0x40 : Byte).extractLsb' 0 4 = 0 ∧ (0x40 : Byte).extractLsb' 6 2 = 1) ∧
    ((0xC0 : Byte).extractLsb' 4 2 = 0 ∧ (0xC0 : Byte).extractLsb' 0 4 = 0 ∧ (0xC0 : Byte).extractLsb' 6 2 = 3) ∧
    ((0x8F : Byte).extractLsb' 4 2 = 0 ∧ (0x8F : Byte).extractLsb' 6 2 = 2) := by decide

theorem witness_FrameDirectionIsBitSeven : (0x7F : Byte).getLsbD 7 = false ∧ (0x80 : Byte).getLsbD 7 = true ∧
    (0x81 : Byte).getLsbD 7 = true ∧ decode [0x81, 0x0C] = .ok .modeTransmit ∧
    decode [0x81, 0x0D] = .ok (.busWrite 0x01 0x0D) := by decide

theorem witness_EncodeDecodeRoundTrip : 2 < [0x40, 0x00, (0x00 : Byte)].length := by decide

theorem witness_StepRunsTheDecodedInstruction :
    (let s := { State.reset with hostIn := [.word 0x40] }
     s.issue = none ∧ s.busy = false ∧ s.hostIn = .word 0x40 :: []) ∧
    { State.reset with issue := some 0x810C }.issue = some 0x810C ∧ State.reset.busy = false ∧
    (0 < 8 ∧ 8 ≤ 8) ∧ (8 < 16 ∧ 16 ≤ 16) := by decide

theorem witness_StepWithoutAnInstruction :
    (State.reset.issue = none ∧ State.reset.busy = false ∧ State.reset.hostIn = []) ∧
    (let s := { State.reset with hostIn := [.idle] }
     s.issue = none ∧ s.busy = false ∧ s.hostIn = .idle :: []) ∧
    ((acceptBegin State.reset).issue = none ∧ (acceptBegin State.reset).busy = true ∧
      (acceptBegin State.reset).step ≠ none) ∧
    (let s := { State.reset with busy := true }
     s.issue = none ∧ s.busy = true ∧ s.step = none) := by decide

theorem witness_ResetInputSetsEveryField :
    let s := { readyEngine [] [] with hostIn := [.reset, .word 0x40] }
    s.issue = none ∧ s.busy = false ∧ s.hostIn = .reset :: [.word 0x40] := by decide

/-- Reset at the third instant of a BEGIN, with a word dropped before it, and at the first. -/
theorem witness_ResetAbortsTheOperation :
    (let s := { acceptBegin State.reset with hostIn := [.idle, .word 0xC0] ++ .reset :: [] }
     (∀ x ∈ [HostIn.idle, .word 0xC0], x ≠ HostIn.reset) ∧ s.hostIn = [.idle, .word 0xC0] ++ .reset :: [] ∧
       [HostIn.idle, .word 0xC0].length < opInstants Config.hw ∧ (runOp Config.hw 2 s).busy = true) ∧
    (let s := { acceptBegin State.reset with hostIn := .reset :: [] }
     s.hostIn = [] ++ .reset :: [] ∧ 0 < opInstants Config.hw ∧ (runOp Config.hw 0 s).busy = true) := by decide +kernel

theorem witness_BusyEngineDropsRequests : Instr.begin ∈ acceptedRequests ∧
    (let s := { acceptBegin State.reset with hostIn := [.word 0x85] }
     s.busy = true ∧ s.hostIn = .word 0x85 :: []) := by decide

theorem witness_HostWordsCannotTouchAnOperation :
    let s := { acceptBegin State.reset with hostIn := [.word 0x85, .idle, .word 0xC0] }
    s.busy = true ∧ ∀ x ∈ s.hostIn, x ≠ HostIn.reset := by decide

theorem witness_StatusReportsReadiness : (readyEngine [] []).busy = false ∧ (readyEngine [] []).hostIn = [] := by decide

theorem witness_SendWhenNotReadyIsANoOp : (Instr.sendLightToggle, (0 : BitVec 4)) ∈ allSends ∧
    (Instr.sendUndefined15, (15 : BitVec 4)) ∈ allSends ∧ State.reset.busy = false ∧ State.reset.hostIn = [] ∧
    State.reset.rstate ≠ .ready ∧ { State.reset with rstate := .faulted }.rstate ≠ .ready := by decide

theorem witness_SendOfUndefinedCodeIsANoOp : (Instr.sendUndefined10, (10 : BitVec 4)) ∈ undefinedSends ∧
    (readyEngine [] []).busy = false ∧ (readyEngine [] []).hostIn = [] := by decide

theorem witness_SendTransmitsTheFrame :
    let s := readyEngine [0x80, 0x80] [30000, 323500]
    (Instr.sendFan6, (9 : Fin 10)) ∈ definedSends ∧ s.busy = false ∧ s.hostIn = [] ∧ s.rstate = .ready ∧
      modeReady (nextAnswer 0x27 s) = true ∧ modeReady (nextAnswer 0x27 (takeAnswer s)) = true := by decide

/-- A time test at a reading 10000 µs or more after `t0` exists whatever T_POLL_MIN_US is. -/
theorem late_reading (cfg : Config) : 10000 ≤ (lawfulReading cfg 0 1 0xFFFFFFFF - 0 : Time).toNat :=
  (show 10000 ≤ elapsedUs 0 (0xFFFFFFFF : Time) by decide).trans (elapsed_le_lawfulReading cfg 0 0xFFFFFFFF 1)

theorem witness_SendTransmitTimeoutEndsTheSend :
    let s := readyEngine [0x00] [0, 0xFFFFFFFF]
    (Instr.sendFan1, (4 : Fin 10)) ∈ definedSends ∧ s.busy = false ∧ s.hostIn = [] ∧ s.rstate = .ready ∧
      modeReady (nextAnswer 0x27 s) = false ∧
      10000 ≤ (lawfulReading Config.hw (nextReading s) 1 (nextReading (takeReading s)) - nextReading s).toNat :=
  ⟨by decide, rfl, rfl, rfl, by decide, late_reading Config.hw⟩

theorem witness_SendSleepTimeoutFollowsTheTransmission :
    let s := readyEngine [0x80, 0x7F] [5, 0, 0xFFFFFFFF]
    (Instr.sendFan1, (4 : Fin 10)) ∈ definedSends ∧ s.busy = false ∧ s.hostIn = [] ∧ s.rstate = .ready ∧
      modeReady (nextAnswer 0x27 s) = true ∧ modeReady (nextAnswer 0x27 (takeAnswer s)) = false ∧
      10000 ≤ (lawfulReading Config.hw (nextReading (takeReading s)) 1 (nextReading (takeReading (takeReading s)))
        - nextReading (takeReading s)).toNat :=
  ⟨by decide, rfl, rfl, rfl, by decide, by decide, late_reading Config.hw⟩

/-- For SendRefinesItsProgram and BeginRefinesItsProgram. -/
theorem witness_refinements : configWf Config.hw = true ∧ configWf tc = true ∧ (readyEngine [] []).busy = false := by decide

/-- Each of the two ways a SEND ends: a word dropped at its first instant, and a reset there. -/
theorem witness_SendRefinesItsProgram :
    (let s := { engine [] [] with hostIn := [.word 0xC0] }
     send tc 5 s = withHost (s.hostIn.drop 2) (sendProgram tc (acceptSend 5 (withHost [] s)))) ∧
    (let s := { engine [] [] with hostIn := [.word 0xC0, .reset, .idle] }
     (runOp tc 1 (acceptSend 5 (withHost [] s))).busy = true ∧
       send tc 5 s = applyReset (withHost [.idle] (runOp tc 1 (acceptSend 5 (withHost [] s))))) := by decide +kernel

/-- The two ways a BEGIN ends: on a failed identification, and by a reset at its second instant. -/
theorem witness_BeginRefinesItsProgram :
    (let s := { engine [0x00] [] with hostIn := [.word 0xC0] }
     begin tc s = beginProgram tc (acceptBegin (withHost [] s))) ∧
    (let s := { engine [0x00] [] with hostIn := [.idle, .reset] }
     (runOp tc 1 (acceptBegin (withHost [] s))).busy = true ∧
       begin tc s = applyReset (withHost [] (runOp tc 1 (acceptBegin (withHost [] s))))) := by decide +kernel

theorem witness_BeginConfiguresTheRadio :
    let s := engine [0x24, 0x80, 0x80] [20000, 20100]
    s.busy = false ∧ s.hostIn = [] ∧ nextAnswer 0x10 s = 0x24 ∧ modeReady (nextAnswer 0x27 (takeAnswer s)) = true ∧
      modeReady (nextAnswer 0x27 (takeAnswer (takeAnswer s))) = true := by decide

theorem witness_BeginIdMismatchWritesNothing :
    let s := readyEngine [0x25] []
    s.busy = false ∧ s.hostIn = [] ∧ nextAnswer 0x10 s ≠ 0x24 := by decide

theorem witness_BeginStandbyTimeoutFails :
    let s := engine [0x24, 0x00] [0, 0xFFFFFFFF]
    s.busy = false ∧ s.hostIn = [] ∧ nextAnswer 0x10 s = 0x24 ∧ modeReady (nextAnswer 0x27 (takeAnswer s)) = false ∧
      10000 ≤ (lawfulReading Config.hw (nextReading s) 1 (nextReading (takeReading s)) - nextReading s).toNat :=
  ⟨rfl, rfl, by decide, by decide, late_reading Config.hw⟩

theorem witness_BeginSleepTimeoutFails :
    let s := engine [0x24, 0x80, 0x00] [5, 0, 0xFFFFFFFF]
    s.busy = false ∧ s.hostIn = [] ∧ nextAnswer 0x10 s = 0x24 ∧ modeReady (nextAnswer 0x27 (takeAnswer s)) = true ∧
      modeReady (nextAnswer 0x27 (takeAnswer (takeAnswer s))) = false ∧
      10000 ≤ (lawfulReading Config.hw (nextReading (takeReading s)) 1 (nextReading (takeReading (takeReading s)))
        - nextReading (takeReading s)).toNat :=
  ⟨rfl, rfl, by decide, by decide, by decide, late_reading Config.hw⟩

theorem witness_BusReadReturnsTheAnswer : (engine [0x80, 0x81] []).busIn = 0x80 :: [0x81] ∧ State.reset.busIn = [] := by
  decide

theorem witness_CatalogLookupAnswersEveryCode : (9 : BitVec 4).toNat ≤ 9 ∧ 9 < (10 : BitVec 4).toNat := by decide

theorem witness_FrameLayout : (0 < 33 ∧ 32 < 33) ∧ (33 ≤ 33 ∧ 33 < 115) ∧ (33 ≤ 114 ∧ 114 < 115) ∧
    (115 ≤ 115 ∧ 115 < 166) ∧ (115 ≤ 165 ∧ 165 < 166) := by decide

theorem witness_SymbolStartTimes : (0 < 5 ∧ 0 < 166) ∧ (4 < 5 ∧ 165 < 166) := by decide

theorem witness_TransmissionCountsAndDuration :
    1669 < (transmitEvents Config.hw (Vector.replicate 166 false)).length := by decide +kernel

theorem witness_WaitModeReadySucceedsAtOnce : (nextAnswer 0x27 (engine [0x80] [0])).getLsbD 7 = true := by decide

theorem forall_mem_pair {α : Type} {P : α → Prop} {x y : α} (hx : P x) (hy : P y) : ∀ p ∈ [x, y], P p := by
  simpa using ⟨hx, hy⟩

theorem configWf_tc : configWf tc = true := by decide

theorem tPollMinUs_tc : tc.tPollMinUs = 1000 := by decide

/-- V-POL-3: two reads that are not ready. -/
theorem witness_PollSucceedsAfterReads :
    let s := engine [0x00, 0x00, 0x80] [0, 3000, 6000]
    let ps : List (Byte × Time) := [(0x00, 3000), (0x00, 6000)]
    configWf tc = true ∧ s.busIn = ps.map Prod.fst ++ 0x80 :: [] ∧ s.timeIn = 0 :: (ps.map Prod.snd ++ []) ∧
      (∀ p ∈ ps, p.1.getLsbD 7 = false) ∧ (0x80 : Byte).getLsbD 7 = true ∧
      (∀ p ∈ ps, (p.2 - 0).toNat < tc.timeoutUs) ∧
      ∀ (k : Nat) (h : k < ps.length), (k + 1) * tc.tPollMinUs ≤ (ps[k].2 - 0).toNat := by
  refine ⟨configWf_tc, rfl, rfl, forall_mem_pair rfl rfl, by decide, forall_mem_pair (by decide) (by decide), ?_⟩
  intro k h
  rw [tPollMinUs_tc]
  match k, h with
  | 0, _ => show 1 * 1000 ≤ ((3000 : Time) - 0).toNat; decide
  | 1, _ => show 2 * 1000 ≤ ((6000 : Time) - 0).toNat; decide

/-- A poll that succeeds at its first read. -/
theorem witness_PollSucceedsAfterReads_first :
    let s := engine [0xFF] [7]
    let ps : List (Byte × Time) := []
    configWf tc = true ∧ s.busIn = ps.map Prod.fst ++ 0xFF :: [] ∧ s.timeIn = 7 :: (ps.map Prod.snd ++ []) ∧
      (∀ p ∈ ps, p.1.getLsbD 7 = false) ∧ (0xFF : Byte).getLsbD 7 = true ∧
      (∀ p ∈ ps, (p.2 - 7).toNat < tc.timeoutUs) ∧
      ∀ (k : Nat) (h : k < ps.length), (k + 1) * tc.tPollMinUs ≤ (ps[k].2 - 7).toNat :=
  ⟨configWf_tc, rfl, rfl, fun _ h => absurd h List.not_mem_nil, by decide, fun _ h => absurd h List.not_mem_nil,
    fun _ h => absurd h (Nat.not_lt_zero _)⟩

/-- V-POL-4: readings at 4000, 9999 and 10000. -/
theorem witness_PollTimesOutAfterReads :
    let s := engine [0x00, 0x7F, 0x00] [0, 4000, 9999, 10000]
    let ps : List (Byte × Time) := [(0x00, 4000), (0x7F, 9999)]
    configWf tc = true ∧ s.busIn = ps.map Prod.fst ++ 0x00 :: [] ∧ s.timeIn = 0 :: (ps.map Prod.snd ++ 10000 :: []) ∧
      (∀ p ∈ ps, p.1.getLsbD 7 = false) ∧ (0x00 : Byte).getLsbD 7 = false ∧
      (∀ p ∈ ps, (p.2 - 0).toNat < tc.timeoutUs) ∧ tc.timeoutUs ≤ ((10000 : Time) - 0).toNat ∧
      (∀ (k : Nat) (h : k < ps.length), (k + 1) * tc.tPollMinUs ≤ (ps[k].2 - 0).toNat) ∧
      (ps.length + 1) * tc.tPollMinUs ≤ ((10000 : Time) - 0).toNat := by
  refine ⟨configWf_tc, rfl, rfl, forall_mem_pair rfl rfl, by decide, forall_mem_pair (by decide) (by decide), by decide, ?_,
    by decide +kernel⟩
  intro k h
  rw [tPollMinUs_tc]
  match k, h with
  | 0, _ => show 1 * 1000 ≤ ((4000 : Time) - 0).toNat; decide
  | 1, _ => show 2 * 1000 ≤ ((9999 : Time) - 0).toNat; decide

theorem witness_PollNeverFailsEarly :
    configWf tc = true ∧ (waitModeReady tc .standby (engine [0x00, 0x00] [0, 6000, 12000])).ok = false := by decide +kernel

theorem witness_EnterModeWritesThenPolls :
    (Mode.transmit, (0x0C : Byte)) ∈ [(Mode.sleep, (0x00 : Byte)), (Mode.standby, 0x04), (Mode.transmit, 0x0C)] ∧
      (nextAnswer 0x27 (engine [0x80] [0])).getLsbD 7 = true := by decide

theorem witness_ConfigurationBytesAreBigEndian : 0xFFFFFF < 2 ^ 24 ∧ 0xFFFF < 2 ^ 16 := by decide

/-- This hardware, and the greatest and smallest values at which the conditions still hold. -/
theorem witness_IllFormedConfigurationsAreRefused :
    ∀ cfg ∈ [Config.hw, { Config.hw with bitrateBps := 489, regFrfMsb := 0x7D, reps := 8, timeoutUs := 2 ^ 32 - 1 },
        { Config.hw with bitrateBps := 32000000, symbolUs := 1, gapUs := 1, timeoutUs := 1, reps := 1 }],
      (0 < cfg.fXtalHz ∧ 0 < cfg.bitrateBps ∧ 0 < cfg.fTargetHz ∧ cfg.fTargetHz * 2 ^ 19 / cfg.fXtalHz < 2 ^ 24 ∧
        1 ≤ cfg.fXtalHz / cfg.bitrateBps ∧ cfg.fXtalHz / cfg.bitrateBps < 2 ^ 16 ∧ cfg.regFrfMsb.toNat + 2 ≤ 0x7F ∧
        0 < cfg.symbolUs ∧ 0 < cfg.gapUs ∧ 0 < cfg.timeoutUs ∧ 1 ≤ cfg.reps) ∧
      cfg.reps ≤ 8 ∧ cfg.timeoutUs < 2 ^ 32 ∧ 0 < cfg.tRstPulseUs ∧ 0 < cfg.tRstWaitUs := by decide

/-- A state in the middle of an operation: STATUS just accepted by the reset block. -/
def accepted : State := acceptStatus State.reset

theorem witness_Inv_busy (cfg : Config) : Inv cfg accepted ∧ accepted.busy = true := by
  refine ⟨?_, rfl⟩
  constructor <;> simp [accepted, acceptStatus, State.reset, pcLegal, labelOf, entering, eventAllowed]

theorem witness_Inv_idle (cfg : Config) : Inv cfg State.reset ∧ State.reset.issue = none := by
  refine ⟨?_, rfl⟩
  constructor <;> simp [State.reset, pcLegal, entering, eventAllowed]

theorem witness_configuration : configWf Config.hw = true ∧ ownOpmode Config.hw = true := by decide

theorem witness_InvariantKeptByEveryStep :
    Inv Config.hw State.reset ∧ State.reset.issue = none ∧ step State.reset = .next (passInstant State.reset) :=
  ⟨(witness_Inv_idle Config.hw).1, rfl, rfl⟩

theorem witness_InvariantKeptByEveryInstant :
    configWf Config.hw = true ∧ ownOpmode Config.hw = true ∧ Inv Config.hw accepted :=
  ⟨witness_configuration.1, witness_configuration.2, (witness_Inv_busy Config.hw).1⟩

theorem witness_EveryOperationEndsOnce :
    configWf Config.hw = true ∧ Inv Config.hw accepted ∧ accepted.busy = true :=
  ⟨witness_configuration.1, (witness_Inv_busy Config.hw).1, rfl⟩

theorem witness_NothingTraps : Inv Config.hw State.reset := (witness_Inv_idle Config.hw).1

theorem witness_SendWritesOnlyTheModeRegister : configWf Config.hw = true ∧ (readyEngine [] []).busy = false :=
  ⟨witness_configuration.1, rfl⟩

theorem witness_PollReadBound : configWf tc = true := configWf_tc

theorem witness_ConfigureRadioWritesTheTable : (nextAnswer 0x27 (engine [0x80] [7])).getLsbD 7 = true := by decide

theorem witness_WriteThenPollIsNeverBroken :
    configWf Config.hw = true ∧ ownOpmode Config.hw = true ∧ Inv Config.hw accepted ∧ Disciplined Config.hw accepted :=
  ⟨witness_configuration.1, witness_configuration.2, (witness_Inv_busy Config.hw).1, by unfold Disciplined; decide⟩

/-- Each of the three ways: reset, B13, a time test at the timeout. -/
theorem witness_ReadinessChangesInThreeWays :
    (let s := { readyEngine [] [] with hostIn := [.reset] }
     (tick tc s).rstate ≠ s.rstate) ∧
    (let s := { engine [] [] with busy := true, op := .begin, step := some .b13 }
     (tick tc s).rstate ≠ s.rstate) ∧
    (let s := { readyEngine [] [10000] with busy := true, op := .send, step := some .s7, sub := .pollTest }
     (tick tc s).rstate ≠ s.rstate) := by decide +kernel

/-- Steps outside an operation: the reset of an idle READY engine, a BEGIN that makes it READY, and a lone frame. -/
theorem witness_ReadinessChangesInThreeWays_steps :
    (let s := { readyEngine [] [] with hostIn := [.reset] }
     s.issue = none ∧ s.busy = false ∧ stepped State.rstate s = some .uninit) ∧
    (let s := { engine [0x24, 0x80, 0x80] [20000, 20100] with hostIn := [.word 0x40] }
     s.issue = none ∧ s.busy = false ∧ stepped State.rstate s = some .ready) ∧
    (let s := { readyEngine [] [] with issue := some 0x8104 }
     s.issue = some 0x8104 ∧ stepped State.rstate s = some .ready) := by decide +kernel

end Sys2Proof.Tests
end

namespace Sys2Proof.Machine

/-! ### Fixing a configuration (00 R8, 42 R172) -/

/-- The conditions of 00 R8, without the model's own of log 20. -/
def MeetsR8 (cfg : Config) : Prop :=
  0 < cfg.fXtalHz ∧ 0 < cfg.bitrateBps ∧ 0 < cfg.fTargetHz ∧ cfg.fTargetHz * 2 ^ 19 / cfg.fXtalHz < 2 ^ 24 ∧
    1 ≤ cfg.fXtalHz / cfg.bitrateBps ∧ cfg.fXtalHz / cfg.bitrateBps < 2 ^ 16 ∧ cfg.regFrfMsb.toNat + 2 ≤ 0x7F ∧
    0 < cfg.symbolUs ∧ 0 < cfg.gapUs ∧ 0 < cfg.timeoutUs ∧ 1 ≤ cfg.reps

/-- Well-formedness is R8 with the four conditions of log 20. -/
theorem configWf_iff (cfg : Config) : configWf cfg = true ↔
    MeetsR8 cfg ∧ cfg.reps ≤ 8 ∧ cfg.timeoutUs < 2 ^ 32 ∧ 0 < cfg.tRstPulseUs ∧ 0 < cfg.tRstWaitUs := by
  simp only [configWf, Bool.and_eq_true, decide_eq_true_eq]
  simp only [MeetsR8, freqWord, bitrateWord]
  tauto

theorem construct_of_wf {cfg : Config} (h : configWf cfg = true) : construct cfg = .next State.reset := if_pos h

theorem construct_of_not_wf {cfg : Config} (h : ¬ configWf cfg = true) : construct cfg = .refused .illFormedConfig :=
  if_neg h

/-- Settles O51: `construct` tests `configWf`, which is R8 with the conditions of log 20. -/
theorem illFormedConfigurationsAreRefused : Obligations.IllFormedConfigurationsAreRefused := by
  refine ⟨fun cfg => ?_, construct_of_wf configWf_hw, fun cfg hr8 hreps htimeout hpulse hwait => ?_⟩
  · by_cases hwf : configWf cfg = true
    · exact .inl ⟨((configWf_iff cfg).mp hwf).1, construct_of_wf hwf⟩
    · exact .inr (construct_of_not_wf hwf)
  · exact construct_of_wf ((configWf_iff cfg).mpr ⟨hr8, hreps, htimeout, hpulse, hwait⟩)

/-! ### Parts of the sequencer that append no event -/

@[simp] theorem beginFails_trace (s : State) : (beginFails s).trace = s.trace := rfl
@[simp] theorem recordId_trace (s : State) : (recordId s).trace = s.trace := rfl
@[simp] theorem lookupInto_trace (cfg : Config) (c : BitVec 4) (s : State) : (lookupInto cfg c s).trace = s.trace := rfl
@[simp] theorem buildInto_trace (cfg : Config) (p : Option Payload) (s : State) :
    (buildInto cfg p s).trace = s.trace := rfl
@[simp] theorem applyReset_trace (s : State) : (applyReset s).trace = s.trace ++ [.reset] := rfl

@[simp] theorem nextSymbol_trace (s : State) : (nextSymbol s).trace = s.trace := by
  by_cases hl : s.idx.val + 1 < 166
  · simp [nextSymbol_of_lt rfl hl]
  · simp [nextSymbol_of_last rfl hl]

@[simp] theorem nextRepetition_trace (cfg : Config) (s : State) : (nextRepetition cfg s).trace = s.trace := by
  unfold nextRepetition
  split <;> simp

/-! ### One event at most (00 R12, 20 R72) -/

/-- The trace of `t` is that of `s`, with at most one event after it. -/
def AddsAtMostOne (s t : State) : Prop := ∃ es, t.trace = s.trace ++ es ∧ es.length ≤ 1

namespace AddsAtMostOne

theorem of_silent {s t : State} (h : t.trace = s.trace) : AddsAtMostOne s t := ⟨[], by simp [h], by simp⟩

theorem of_event {s t : State} {e : Event} (h : t.trace = s.trace ++ [e]) : AddsAtMostOne s t := ⟨[e], h, le_rfl⟩

/-- Asserting CS appends nothing, so the transaction's one event is that of the transfer (42 R153). -/
theorem busInstant {transfer : State → State} (h : ∀ s, AddsAtMostOne s (transfer s)) (s : State) :
    AddsAtMostOne s (busInstant transfer s) := by
  unfold Machine.busInstant
  split
  · exact of_silent (csAssert_trace s)
  · exact h s

theorem writesInstant (cfg : Config) (ws : List (RegAddr × Byte)) (here : Step) {next : State → State}
    (hnext : ∀ s, (next s).trace = s.trace) (s : State) : AddsAtMostOne s (writesInstant cfg ws here next s) := by
  unfold Machine.writesInstant
  split
  next a v _ =>
    refine busInstant (fun s => of_event (e := .busW a v) ?_) s
    split
    · simp
    · simp [hnext]
  next => exact of_silent (hnext s)

theorem enterModeInstant (cfg : Config) (m : Mode) (here : Step) {yes no : State → State}
    (hyes : ∀ s, (yes s).trace = s.trace) (hno : ∀ s, (no s).trace = s.trace) (s : State) :
    AddsAtMostOne s (enterModeInstant cfg m here yes no s) := by
  unfold Machine.enterModeInstant
  split
  · exact of_event (by rw [goto_trace, pollBegin_trace])
  · refine busInstant (fun s => of_event (e := .busR cfg.regStatus (nextAnswer cfg.regStatus s)) ?_) s
    dsimp only
    split
    · rw [hyes, pollOk_trace, readTransfer_trace]
    · rw [goto_trace, readTransfer_trace]
  · refine of_event (e := .time (testReading cfg s)) ?_
    split
    · rw [hno, pollFail_trace, pollNow_trace]
    · rw [goto_trace, pollNow_trace]
  · exact busInstant (fun s => of_event (by rw [goto_trace, writeTransfer_trace])) s

/-! The steps with positions or branches of their own (43 R192, R193); the others are read off in `sequence`. -/

theorem stepB2 (cfg : Config) (s : State) : AddsAtMostOne s (stepB2 cfg s) := by
  unfold Machine.stepB2
  split
  · exact of_event (by rw [goto_trace, pinWriteReset_trace])
  · exact of_event (by rw [goto_trace, hold_trace])
  · exact of_event (by rw [goto_trace, pinWriteReset_trace])

theorem stepB3 (cfg : Config) (s : State) : AddsAtMostOne s (stepB3 cfg s) := by
  unfold Machine.stepB3
  exact of_event (by rw [goto_trace, hold_trace])

theorem stepB4 (cfg : Config) (s : State) : AddsAtMostOne s (stepB4 cfg s) :=
  busInstant (fun s => of_event (by rw [goto_trace, recordId_trace, readTransfer_trace])) s

theorem stepB5 (s : State) : AddsAtMostOne s (stepB5 s) := by
  refine of_silent ?_
  unfold Machine.stepB5
  split <;> simp

theorem stepB6 (cfg : Config) (s : State) : AddsAtMostOne s (stepB6 cfg s) := by
  unfold Machine.stepB6
  split
  · exact enterModeInstant cfg .standby .b6 (goto_trace _ _) beginFails_trace s
  · exact of_silent (goto_trace _ _ s)

theorem stepS2 (s : State) : AddsAtMostOne s (stepS2 s) := by
  refine of_silent ?_
  unfold Machine.stepS2
  split <;> simp

theorem stepS3 (cfg : Config) (s : State) : AddsAtMostOne s (stepS3 cfg s) := by
  refine of_silent ?_
  unfold Machine.stepS3
  dsimp only
  split <;> simp

theorem stepS4 (cfg : Config) (s : State) : AddsAtMostOne s (stepS4 cfg s) := by
  refine of_silent ?_
  unfold Machine.stepS4
  dsimp only
  split <;> simp

theorem stepS5 (cfg : Config) (s : State) : AddsAtMostOne s (stepS5 cfg s) := by
  unfold Machine.stepS5
  exact enterModeInstant cfg .transmit .s5 (fun s => by rw [goto_trace, setIdx_trace, setRep_trace]) (goto_trace _ _) s

theorem stepS6 (cfg : Config) (s : State) : AddsAtMostOne s (stepS6 cfg s) := by
  unfold Machine.stepS6
  split
  · exact of_event (by rw [nextSymbol_trace, hold_trace])
  · exact of_event (by rw [goto_trace, pinWriteData_trace])
  · exact of_event (by rw [nextRepetition_trace, hold_trace])
  · exact of_event (by rw [goto_trace, pinWriteData_trace])

theorem stepS8 (s : State) : AddsAtMostOne s (stepS8 s) := by
  refine of_silent ?_
  unfold Machine.stepS8
  split <;> simp

/-- Every action of the sequencer, by its pc. -/
theorem sequence (cfg : Config) (s : State) : AddsAtMostOne s (sequence cfg s) := by
  unfold Machine.sequence
  rcases s.step with _ | st
  · exact of_silent rfl
  cases st
  case b1 => exact of_silent (goto_trace _ _ s)
  case b2 => exact stepB2 cfg s
  case b3 => exact stepB3 cfg s
  case b4 => exact stepB4 cfg s
  case b5 => exact stepB5 s
  case b6 => exact stepB6 cfg s
  case b7 => exact writesInstant cfg _ .b7 (goto_trace _ _) s
  case b8 => exact writesInstant cfg _ .b8 (goto_trace _ _) s
  case b9 => exact writesInstant cfg _ .b9 (goto_trace _ _) s
  case b10 => exact writesInstant cfg _ .b10 (goto_trace _ _) s
  case b11 => exact writesInstant cfg _ .b11 (goto_trace _ _) s
  case b12 => exact enterModeInstant cfg .sleep .b12 (goto_trace _ _) beginFails_trace s
  case b13 => exact of_silent (t := stepB13 s) rfl
  case b14 => exact of_event (complete_trace s.r s)
  case s1 => exact of_silent (goto_trace _ _ s)
  case s2 => exact stepS2 s
  case s3 => exact stepS3 cfg s
  case s4 => exact stepS4 cfg s
  case s5 => exact stepS5 cfg s
  case s6 => exact stepS6 cfg s
  case s7 => exact enterModeInstant cfg .sleep .s7 (goto_trace _ _) (goto_trace _ _) s
  case s8 => exact stepS8 s
  case s9 => exact of_event (complete_trace false s)
  case t1 => exact of_event (complete_trace (readyOut s) s)

/-- An instant is the reset input or one action of the sequencer. -/
theorem tick (cfg : Config) (s : State) : AddsAtMostOne s (tick cfg s) := by
  rcases tick_cases cfg s with ⟨_, _, htick⟩ | ⟨_, htick⟩
  · exact of_event (by rw [htick, applyReset_trace, passInstant_trace])
  · obtain ⟨es, htrace, hlen⟩ := sequence cfg (passInstant s)
    exact ⟨es, by rw [htick, htrace, passInstant_trace], hlen⟩

end AddsAtMostOne

/-- Settles O59, from what each action of the sequencer appends. -/
theorem atMostOneEventPerInstant : Obligations.AtMostOneEventPerInstant := AddsAtMostOne.tick

end Sys2Proof.Machine

namespace Sys2Proof.Safety

open Sys2Proof.Machine

/-! ### The pc of an operation in progress (10 R22, R23) -/

/-- The operation a label belongs to. -/
def opOf : Step → Op
  | .b1 | .b2 | .b3 | .b4 | .b5 | .b6 | .b7 | .b8 | .b9 | .b10 | .b11 | .b12 | .b13 | .b14 => .begin
  | .s1 | .s2 | .s3 | .s4 | .s5 | .s6 | .s7 | .s8 | .s9 => .send
  | .t1 => .status

theorem labelOf_iff (o : Op) (st : Step) : labelOf o st = true ↔ o = opOf st := by
  cases o <;> cases st <;> decide

theorem pcLegal_of_step {s : State} {st : Step} (hs : s.step = some st) :
    pcLegal s = true ↔ s.busy = true ∧ s.op = opOf st := by
  rw [← labelOf_iff]
  unfold pcLegal
  rw [hs]
  cases s.op <;> simp [labelOf]

theorem pcLegal_of_no_step {s : State} (hs : s.step = none) : pcLegal s = true ↔ s.op = .none ∧ s.busy = false := by
  unfold pcLegal
  rw [hs]
  cases s.op <;> simp

theorem pcLegal_of_idle {s : State} (hb : s.busy = false) : pcLegal s = true ↔ s.op = .none ∧ s.step = none := by
  unfold pcLegal
  cases s.op <;> cases s.step <;> simp [hb]

/-! ### The invariant, cut by what it speaks of -/

/-- The part of `Inv` of an operation `o` in progress that does not depend on the step: the actions of the sequencer carry
it along. -/
structure Going (cfg : Config) (o : Op) (s : State) : Prop where
  busy : s.busy = true
  op : s.op = o
  notDone : s.done = false
  radio : s.radioMode = none ∨ ∃ m, s.radioMode = some (modeVal m)
  events : ∀ e ∈ s.trace, eventAllowed cfg e = true

/-- Every output pin is at its idle level (10 R31 to R33). -/
structure PinsIdle (s : State) : Prop where
  cs : s.pinCs = true
  reset : s.pinReset = false
  data : s.pinData = false

/-- `t` differs from `s` in the engine's inner variables at most: the host port, the trace, the pins and the recorded mode
are the same. -/
structure SameShown (s t : State) : Prop where
  busy : t.busy = s.busy
  op : t.op = s.op
  done : t.done = s.done
  radioMode : t.radioMode = s.radioMode
  trace : t.trace = s.trace
  cs : t.pinCs = s.pinCs
  reset : t.pinReset = s.pinReset
  data : t.pinData = s.pinData

theorem Going.congr {cfg : Config} {o : Op} {s t : State} (h : Going cfg o s)
    (e : SameShown s t := by exact ⟨rfl, rfl, rfl, rfl, rfl, rfl, rfl, rfl⟩) : Going cfg o t :=
  ⟨e.busy ▸ h.busy, e.op ▸ h.op, e.done ▸ h.notDone, e.radioMode ▸ h.radio, e.trace ▸ h.events⟩

theorem PinsIdle.congr {s t : State} (h : PinsIdle s)
    (e : SameShown s t := by exact ⟨rfl, rfl, rfl, rfl, rfl, rfl, rfl, rfl⟩) : PinsIdle t :=
  ⟨e.cs.trans h.cs, e.reset.trans h.reset, e.data.trans h.data⟩

/-- The positions of a mode entry after its write of REG_OPMODE (42 R161). -/
def Polling (u : Sub) : Prop := u = .pollStart ∨ u = .pollRead ∨ u = .pollTest

theorem not_polling_modeWrite : ¬ Polling .modeWrite := by simp [Polling]

/-- What `Inv` asks of the latch, the mode and the repetition counter at the step `st`, position `u`. -/
def Demands (cfg : Config) (st : Step) (u : Sub) (s : State) : Prop :=
  match st with
  | .b6 => cfg.beginEntersStandby = true → Polling u → s.radioMode = some (modeVal .standby)
  | .b7 | .b8 | .b9 | .b10 | .b11 => cfg.beginEntersStandby = true → s.radioMode = some (modeVal .standby)
  | .b12 | .s7 => Polling u → s.radioMode = some (modeVal .sleep)
  | .s3 | .s4 => s.rstate = .ready
  | .s5 => s.rstate = .ready ∧ (Polling u → s.radioMode = some (modeVal .transmit))
  | .s6 => s.rep.val < cfg.reps ∧ s.rstate = .ready ∧ s.radioMode = some (modeVal .transmit)
  | _ => True

section
variable {cfg : Config} {s : State} {st : Step}

theorem Inv.going (h : Inv cfg s) (hs : s.step = some st) : Going cfg (opOf st) s := by
  obtain ⟨hbusy, hop⟩ := (pcLegal_of_step hs).mp h.pc
  have hdone : s.done = false := by
    cases hd : s.done
    · rfl
    · simpa [hbusy] using h.doneIdle hd
  exact ⟨hbusy, hop, hdone, h.radio, h.events⟩

theorem Inv.demands (h : Inv cfg s) (hs : s.step = some st) : Demands cfg st s.sub s := by
  have hent : ∀ m, entering cfg (some st) = some m → Polling s.sub → s.radioMode = some (modeVal m) :=
    hs ▸ h.entered
  cases st
  case b6 => exact fun hsb => hent .standby (if_pos hsb)
  case b7 | b8 | b9 | b10 | b11 => exact fun hsb => h.standby hsb (by simp [hs])
  case b12 | s7 => exact hent .sleep rfl
  case s3 | s4 => exact h.sendReady (by simp [hs])
  case s5 => exact ⟨h.sendReady (by simp [hs]), hent .transmit rfl⟩
  case s6 => exact ⟨h.repRange hs, h.loopReady hs⟩
  all_goals trivial

/-- The mode an entering step waits for is the last one written, once the write is done. -/
theorem Demands.entered {u : Sub} (h : Demands cfg st u s) {m : Mode} (he : entering cfg (some st) = some m)
    (hu : Polling u) : s.radioMode = some (modeVal m) := by
  cases st
  case b6 =>
    cases hsb : cfg.beginEntersStandby
    · simp [entering, hsb] at he
    · obtain rfl : Mode.standby = m := by simpa [entering, hsb] using he
      exact h hsb hu
  case b12 | s7 =>
    obtain rfl : Mode.sleep = m := by simpa [entering] using he
    exact h hu
  case s5 =>
    obtain rfl : Mode.transmit = m := by simpa [entering] using he
    exact h.2 hu
  all_goals simp [entering] at he

/-- At a step that enters a mode, only the write may still be owed, and the block is READY at S5. -/
theorem Demands.of_entering {u : Sub} {m : Mode} (he : entering cfg (some st) = some m)
    (hsend : st = .s5 → s.rstate = .ready) (hu : Polling u → s.radioMode = some (modeVal m)) : Demands cfg st u s := by
  cases st
  case b6 =>
    intro hsb
    obtain rfl : Mode.standby = m := by simpa [entering, hsb] using he
    exact hu
  case b12 | s7 =>
    obtain rfl : Mode.sleep = m := by simpa [entering] using he
    exact hu
  case s5 =>
    obtain rfl : Mode.transmit = m := by simpa [entering] using he
    exact ⟨hsend rfl, hu⟩
  all_goals simp [entering] at he

/-- At a step that enters no mode the position does not matter. -/
theorem Demands.move {u v : Sub} {t : State} (h : Demands cfg st u s) (he : entering cfg (some st) = none)
    (hrstate : t.rstate = s.rstate) (hradio : t.radioMode = s.radioMode) (hrep : t.rep = s.rep) :
    Demands cfg st v t := by
  cases st
  case b6 => intro hsb; simp [entering, hsb] at he
  case b12 | s5 | s7 => simp [entering] at he
  case b7 | b8 | b9 | b10 | b11 => exact fun hsb => hradio.trans (h hsb)
  case s3 | s4 => exact hrstate.trans h
  case s6 =>
    obtain ⟨hlt, hready, hmode⟩ := h
    exact ⟨hrep ▸ hlt, hrstate.trans hready, hradio.trans hmode⟩
  all_goals trivial

/-- `Inv` from its parts, where the pc has just moved to position `u` of `st` with no transaction open. -/
theorem Going.inv {u : Sub} (h : Going cfg (opOf st) s) (hcs : s.pinCs = true)
    (hreset : s.pinReset = true → st = .b2 ∧ (u = .item 1 ∨ u = .item 2))
    (hdata : s.pinData = true → st = .s6 ∧ u ≠ .gapHold ∧ (u = .symPin → s.idx ≠ 0))
    (hd : Demands cfg st u s) : Inv cfg (goto st u s) where
  pc := (pcLegal_of_step (goto_step st u s)).mpr ⟨h.busy, h.op⟩
  doneIdle hdone := absurd (h.notDone.symm.trans hdone) Bool.false_ne_true
  cs hlow := by simp [hcs] at hlow
  resetPin hp := by simpa using hreset hp
  dataPin hp := by simpa using hdata hp
  repRange hst := by
    obtain rfl : st = .s6 := by simpa using hst
    exact hd.1
  radio := h.radio
  entered m he hu := hd.entered he hu
  loopReady hst := by
    obtain rfl : st = .s6 := by simpa using hst
    exact hd.2
  sendReady hst := by
    simp only [goto_step, Option.some.injEq] at hst
    rcases hst with rfl | rfl | rfl
    · exact hd
    · exact hd
    · exact hd.1
  standby hsb hst := by
    simp only [goto_step, Option.some.injEq] at hst
    rcases hst with rfl | rfl | rfl | rfl | rfl <;> exact hd hsb
  events := h.events

/-- `Inv` where every pin is idle, some inner variables may have changed, and the pc has just moved. -/
theorem Going.inv_idle {u : Sub} {t : State} (h : Going cfg (opOf st) s) (hp : PinsIdle s) (hd : Demands cfg st u t)
    (e : SameShown s t := by exact ⟨rfl, rfl, rfl, rfl, rfl, rfl, rfl, rfl⟩) : Inv cfg (goto st u t) := by
  have hp : PinsIdle t := hp.congr e
  exact (h.congr e).inv hp.cs (by simp [hp.reset]) (by simp [hp.data]) hd

/-- `Inv` where no operation is in progress. -/
theorem inv_of_no_step (hstep : s.step = none) (hop : s.op = .none) (hbusy : s.busy = false) (hp : PinsIdle s)
    (hradio : s.radioMode = none ∨ ∃ m, s.radioMode = some (modeVal m))
    (hev : ∀ e ∈ s.trace, eventAllowed cfg e = true) : Inv cfg s where
  pc := (pcLegal_of_no_step hstep).mpr ⟨hop, hbusy⟩
  doneIdle _ := hbusy
  cs hlow := by simp [hp.cs] at hlow
  resetPin hr := by simp [hp.reset] at hr
  dataPin hr := by simp [hp.data] at hr
  repRange := by simp [hstep]
  radio := hradio
  entered := by simp [hstep, entering]
  loopReady := by simp [hstep]
  sendReady := by simp [hstep]
  standby := by simp [hstep]
  events := hev

/-! ### The pins in a state of the invariant -/

theorem Inv.pinReset_low (h : Inv cfg s) (hne : s.step ≠ some .b2) : s.pinReset = false := by
  cases hr : s.pinReset
  · rfl
  · exact absurd (h.resetPin hr).1 hne

theorem Inv.pinData_low (h : Inv cfg s) (hne : s.step ≠ some .s6) : s.pinData = false := by
  cases hr : s.pinData
  · rfl
  · exact absurd (h.dataPin hr).1 hne

theorem Inv.pinCs_high (h : Inv cfg s) (hbus : atBus cfg s = false) : s.pinCs = true := by
  cases hr : s.pinCs
  · simp [h.cs hr] at hbus
  · rfl

theorem Inv.pinsIdle (h : Inv cfg s) (hbus : atBus cfg s = false) (hb2 : s.step ≠ some .b2) (hs6 : s.step ≠ some .s6) :
    PinsIdle s :=
  ⟨h.pinCs_high hbus, h.pinReset_low hb2, h.pinData_low hs6⟩

/-- A read ends with CS high (42 R153). -/
theorem pinsIdle_readTransfer (a : RegAddr) (hreset : s.pinReset = false) (hdata : s.pinData = false) :
    PinsIdle (readTransfer a s) :=
  ⟨by simp, by simp [hreset], by simp [hdata]⟩

/-- The steps that move no pin and make no transaction. -/
def touchesNoPin : Step → Bool
  | .b1 | .b3 | .b5 | .b13 | .b14 | .s1 | .s2 | .s3 | .s4 | .s8 | .s9 | .t1 => true
  | _ => false

theorem Inv.pinsIdle_at (h : Inv cfg s) (hs : s.step = some st) (hst : touchesNoPin st = true) : PinsIdle s := by
  have hbus : atBus cfg s = false := by
    cases st <;> simp_all [touchesNoPin, atBus, entering, writesAt]
  refine h.pinsIdle hbus ?_ ?_ <;> rintro hne <;> cases hs.symm.trans hne <;> cases hst

theorem Inv.pinsIdle_of_no_step (h : Inv cfg s) (hs : s.step = none) : PinsIdle s :=
  h.pinsIdle (by simp [atBus, hs, entering, writesAt]) (by simp [hs]) (by simp [hs])

/-! ### What each action of the sequencer does to the parts -/

theorem ownOpmode_ne (hown : ownOpmode cfg = true) {a : RegAddr} {v : Byte} (hw : (a, v) ∈ configWrites cfg) :
    a ≠ cfg.regOpmode := by
  simpa using (List.all_eq_true.mp hown) (a, v) hw

theorem writesAt_mem_configWrites {w : RegAddr × Byte} (hw : w ∈ writesAt cfg (some st)) : w ∈ configWrites cfg := by
  cases st <;> simp_all [writesAt, configWrites]

theorem modeWrite_mem_tableWrites (cfg : Config) (m : Mode) : (cfg.regOpmode, modeVal m) ∈ tableWrites cfg := by
  cases m <;> simp [tableWrites]

variable {o : Op}

theorem Going.emit (h : Going cfg o s) {e : Event} (he : eventAllowed cfg e = true) : Going cfg o (emit e s) :=
  ⟨h.busy, h.op, h.notDone, h.radio, by
    intro x hx
    rcases List.mem_append.mp hx with hx | hx
    · exact h.events x hx
    · exact List.mem_singleton.mp hx ▸ he⟩

theorem Going.hold (h : Going cfg o s) {us : Nat} (he : eventAllowed cfg (.hold us) = true) :
    Going cfg o (hold us s) := h.emit he

theorem Going.pinWrite (h : Going cfg o s) {p : Pin} (hp : p ≠ .cs) (l : Bool) : Going cfg o (pinWrite p l s) := by
  have hset : Going cfg o (setPin p l s) := by cases p <;> exact ⟨h.busy, h.op, h.notDone, h.radio, h.events⟩
  exact hset.emit (by simpa [eventAllowed] using hp)

theorem Going.takeAnswer (h : Going cfg o s) : Going cfg o (takeAnswer s) := by
  rw [takeAnswer_eq]; exact ⟨h.busy, h.op, h.notDone, h.radio, h.events⟩

theorem Going.takeReading (h : Going cfg o s) : Going cfg o (takeReading s) := by
  rw [takeReading_eq]; exact ⟨h.busy, h.op, h.notDone, h.radio, h.events⟩

theorem Going.readTransfer (h : Going cfg o s) {a : RegAddr} (ha : a = cfg.regVersion ∨ a = cfg.regStatus) :
    Going cfg o (readTransfer a s) :=
  have hread := h.takeAnswer.emit (e := .busR a (nextAnswer a s)) (by simpa [eventAllowed] using ha)
  ⟨hread.busy, hread.op, hread.notDone, hread.radio, hread.events⟩

/-- A configuration write leaves the recorded mode as it is (30 R95). -/
theorem Going.writeConfig (h : Going cfg o s) (hown : ownOpmode cfg = true) {a : RegAddr} {v : Byte}
    (hw : (a, v) ∈ configWrites cfg) :
    Going cfg o (writeTransfer cfg a v s) ∧ (writeTransfer cfg a v s).radioMode = s.radioMode := by
  have hradio : (writeTransfer cfg a v s).radioMode = s.radioMode := if_neg (ownOpmode_ne hown hw)
  have hwrite := h.emit (e := .busW a v) (by simp [eventAllowed, tableWrites, hw])
  exact ⟨⟨h.busy, h.op, h.notDone, hradio ▸ h.radio, hwrite.events⟩, hradio⟩

/-- The write of a mode entry records its mode (42 R160). -/
theorem Going.writeMode (h : Going cfg o s) (m : Mode) :
    Going cfg o (writeTransfer cfg cfg.regOpmode (modeVal m) s) ∧
      (writeTransfer cfg cfg.regOpmode (modeVal m) s).radioMode = some (modeVal m) := by
  have hradio : (writeTransfer cfg cfg.regOpmode (modeVal m) s).radioMode = some (modeVal m) := if_pos rfl
  have hwrite := h.emit (e := .busW cfg.regOpmode (modeVal m)) (by simp [eventAllowed, modeWrite_mem_tableWrites])
  exact ⟨⟨h.busy, h.op, h.notDone, .inr ⟨m, hradio⟩, hwrite.events⟩, hradio⟩

theorem Going.pollBegin (h : Going cfg o s) (m : Mode) : Going cfg o (pollBegin m s) :=
  have hread := h.takeReading.emit (e := .time (nextReading s)) rfl
  ⟨hread.busy, hread.op, hread.notDone, hread.radio, hread.events⟩

theorem Going.pollNow (h : Going cfg o s) : Going cfg o (pollNow cfg s) :=
  have hread := h.takeReading.emit (e := .time (testReading cfg s)) rfl
  ⟨hread.busy, hread.op, hread.notDone, hread.radio, hread.events⟩

/-- Completion leaves the engine idle (43 R195). -/
theorem Going.inv_complete (h : Going cfg o s) (hp : PinsIdle s) (r : Bool) : Inv cfg (complete r s) :=
  inv_of_no_step rfl rfl rfl ⟨hp.cs, hp.reset, hp.data⟩ h.radio (h.emit (e := .done s.op r) rfl).events

/-! ### Reset and the passing of an instant -/

theorem inv_reset (cfg : Config) : Inv cfg State.reset :=
  inv_of_no_step rfl rfl rfl ⟨rfl, rfl, rfl⟩ (.inl rfl) (by simp [State.reset, eventAllowed])

theorem Inv.applyReset (h : Inv cfg s) : Inv cfg (applyReset s) := by
  refine inv_of_no_step rfl rfl rfl ⟨rfl, rfl, rfl⟩ (.inl rfl) fun e he => ?_
  rcases List.mem_append.mp he with he | he
  · exact h.events e he
  · exact List.mem_singleton.mp he ▸ rfl

theorem Inv.passInstant (h : Inv cfg s) : Inv cfg (passInstant s) :=
  { h with doneIdle := fun hdone => absurd hdone Bool.false_ne_true }

/-! ### The parts of a step -/

/-- A transaction keeps the invariant when its transfer does: asserting CS is what `atBus` allows. -/
theorem Inv.busInstant (h : Inv cfg s) (hbus : atBus cfg s = true) {transfer : State → State}
    (ht : Inv cfg (transfer s)) : Inv cfg (busInstant transfer s) := by
  unfold Machine.busInstant
  split
  · exact { h with cs := fun _ => hbus }
  · exact ht

/-- A configuration step keeps the invariant when what follows its last write does. -/
theorem Inv.writesInstant (h : Inv cfg s) (hs : s.step = some st) (hown : ownOpmode cfg = true)
    (hent : entering cfg (some st) = none) (hop : opOf st = .begin) (hb : st ≠ .b2) (hb4 : st ≠ .b4)
    {next : State → State}
    (hnext : ∀ t, Going cfg .begin t → PinsIdle t → t.radioMode = s.radioMode → Inv cfg (next t)) :
    Inv cfg (writesInstant cfg (writesAt cfg (some st)) st next s) := by
  have hgoing := h.going hs
  have hreset : s.pinReset = false := h.pinReset_low (by simpa [hs] using hb)
  have hdata : s.pinData = false := h.pinData_low (by rintro h6; cases hs.symm.trans h6; cases hop)
  unfold Machine.writesInstant
  split
  next a v hget =>
    obtain ⟨hlt, hw⟩ := List.getElem?_eq_some_iff.mp hget
    have hmem : (a, v) ∈ configWrites cfg := writesAt_mem_configWrites (hw ▸ List.getElem_mem hlt)
    obtain ⟨hwritten, hradio⟩ := hgoing.writeConfig hown hmem
    have hpins : PinsIdle (writeTransfer cfg a v s) := ⟨rfl, hreset, hdata⟩
    refine h.busInstant (by simp [atBus, hs, hlt]) ?_
    split
    · exact hwritten.inv_idle hpins ((h.demands hs).move hent rfl hradio rfl)
    · exact hnext _ (hop ▸ hwritten) hpins hradio
  next hnone =>
    have hlen := List.getElem?_eq_none_iff.mp hnone
    exact hnext s (hop ▸ hgoing)
      ⟨h.pinCs_high (by simp [atBus, hs, hent, hb4, hlen]), hreset, hdata⟩ rfl

/-- A step that enters a mode keeps the invariant when what follows its poll does. -/
theorem Inv.enterModeInstant (h : Inv cfg s) (hs : s.step = some st) {m : Mode}
    (hent : entering cfg (some st) = some m) {yes no : State → State}
    (hyes : ∀ t, Going cfg (opOf st) t → PinsIdle t → t.rstate = s.rstate → t.radioMode = some (modeVal m) →
      Inv cfg (yes t))
    (hno : ∀ t, Going cfg (opOf st) t → PinsIdle t → Inv cfg (no t)) :
    Inv cfg (enterModeInstant cfg m st yes no s) := by
  have hgoing := h.going hs
  have hreset : s.pinReset = false := h.pinReset_low fun h2 => by cases hs.symm.trans h2; cases hent
  have hdata : s.pinData = false := h.pinData_low fun h6 => by cases hs.symm.trans h6; cases hent
  have hb4 : st ≠ .b4 := fun h4 => by cases h4; cases hent
  have hwrites : writesAt cfg (some st) = [] := by cases st <;> simp_all [entering, writesAt]
  have hsend : st = .s5 → s.rstate = .ready := fun h5 => h.sendReady (by simp [hs, h5])
  have hmode : Polling s.sub → s.radioMode = some (modeVal m) := (h.demands hs).entered hent
  unfold Machine.enterModeInstant
  split
  next hsub =>
    have hcs := h.pinCs_high (by simp [atBus, hs, hsub, hb4, hwrites])
    refine (hgoing.pollBegin m).inv_idle ⟨by simp [hcs], by simp [hreset], by simp [hdata]⟩
      (Demands.of_entering hent (by simpa using hsend) fun _ => ?_)
    simpa using hmode (by simp [Polling, hsub])
  next hsub =>
    have hmode := hmode (by simp [Polling, hsub])
    have hread := hgoing.readTransfer (a := cfg.regStatus) (.inr rfl)
    have hpins := pinsIdle_readTransfer cfg.regStatus hreset hdata
    refine h.busInstant (by simp [atBus, hs, hsub, hent]) ?_
    dsimp only
    split
    · exact hyes _ hread.congr hpins.congr (by simp) (by simpa using hmode)
    · exact hread.inv_idle hpins (Demands.of_entering hent (by simpa using hsend) fun _ => by simpa using hmode)
  next hsub =>
    have hmode := hmode (by simp [Polling, hsub])
    have hcs := h.pinCs_high (by simp [atBus, hs, hsub, hb4, hwrites])
    have hpins : PinsIdle (pollNow cfg s) := ⟨by simp [hcs], by simp [hreset], by simp [hdata]⟩
    split
    · exact hno _ hgoing.pollNow.congr hpins.congr
    · exact hgoing.pollNow.inv_idle hpins
        (Demands.of_entering hent (by simpa using hsend) fun _ => by simpa using hmode)
  next hstart hread htest =>
    obtain ⟨hwritten, hradio⟩ := hgoing.writeMode m
    have hbus : atBus cfg s = true := by
      simp [atBus, hs, hent, show s.sub ≠ .pollStart from hstart, show s.sub ≠ .pollTest from htest]
    refine h.busInstant hbus ?_
    exact hwritten.inv_idle ⟨rfl, hreset, hdata⟩ (Demands.of_entering hent (by simpa using hsend) fun _ => hradio)

/-! ### The steps with branches or pins of their own -/

theorem Inv.stepB2 (h : Inv cfg s) (hs : s.step = some .b2) : Inv cfg (stepB2 cfg s) := by
  have hgoing := h.going hs
  have hcs := h.pinCs_high (by simp [atBus, hs, entering, writesAt])
  have hdata : s.pinData = false := h.pinData_low (by simp [hs])
  unfold Machine.stepB2
  split
  · exact (hgoing.pinWrite (by decide) true).inv hcs (by simp) (by simp [hdata]) trivial
  · exact (hgoing.hold (by simp [eventAllowed])).inv hcs (by simp) (by simp [hdata]) trivial
  · exact (hgoing.pinWrite (p := .reset) (by decide) false).inv_idle (st := .b3) ⟨hcs, rfl, hdata⟩ trivial

theorem Inv.stepB4 (h : Inv cfg s) (hs : s.step = some .b4) : Inv cfg (stepB4 cfg s) := by
  have hpins := pinsIdle_readTransfer cfg.regVersion (h.pinReset_low (by simp [hs])) (h.pinData_low (by simp [hs]))
  have hread := (h.going hs).readTransfer (a := cfg.regVersion) (.inl rfl)
  refine h.busInstant (by simp [atBus, hs]) ?_
  exact hread.inv_idle (st := .b5) hpins trivial

/-- A failure of BEGIN goes on at B14 (43 R192). -/
theorem Going.inv_beginFails (h : Going cfg .begin s) (hp : PinsIdle s) : Inv cfg (beginFails s) :=
  h.inv_idle (st := .b14) hp trivial

theorem Inv.stepB5 (h : Inv cfg s) (hs : s.step = some .b5) : Inv cfg (stepB5 s) := by
  have hp := h.pinsIdle_at hs rfl
  unfold Machine.stepB5
  split
  · exact (h.going hs).inv_idle (st := .b6) hp fun _ hu => absurd hu not_polling_modeWrite
  · exact Going.inv_beginFails (h.going hs).congr hp.congr

theorem Inv.stepB6 (h : Inv cfg s) (hs : s.step = some .b6) : Inv cfg (stepB6 cfg s) := by
  unfold Machine.stepB6
  split
  next hsb =>
    refine h.enterModeInstant hs (by simp [entering, hsb]) (fun t hgoing hp _ hradio => ?_)
      fun t hgoing hp => hgoing.inv_beginFails hp
    exact hgoing.inv_idle (st := .b7) hp fun _ => hradio
  next hsb =>
    have hp := h.pinsIdle (by simp [atBus, hs, entering, writesAt, hsb]) (by simp [hs]) (by simp [hs])
    exact (h.going hs).inv_idle (st := .b7) hp fun hsb' => absurd hsb' hsb

/-- The last configuration write is followed by the mode entry of B12. -/
theorem Inv.stepB11 (h : Inv cfg s) (hs : s.step = some .b11) (hown : ownOpmode cfg = true) : Inv cfg (stepB11 cfg s) :=
  h.writesInstant hs hown rfl rfl (by decide) (by decide) fun _ hgoing hp _ =>
    hgoing.inv_idle (st := .b12) hp fun hu => absurd hu not_polling_modeWrite

theorem Inv.stepS2 (h : Inv cfg s) (hs : s.step = some .s2) : Inv cfg (stepS2 s) := by
  have hp := h.pinsIdle_at hs rfl
  unfold Machine.stepS2
  split
  next hready => exact (h.going hs).inv_idle (st := .s3) hp (beq_iff_eq.mp hready)
  next => exact (h.going hs).inv_idle (st := .s9) hp trivial

theorem Inv.stepS3 (h : Inv cfg s) (hs : s.step = some .s3) : Inv cfg (stepS3 cfg s) := by
  have hp := h.pinsIdle_at hs rfl
  unfold Machine.stepS3
  dsimp only
  split
  · exact (h.going hs).inv_idle (st := .s9) hp trivial
  · exact (h.going hs).inv_idle (st := .s4) hp (h.sendReady (.inl hs))

theorem Inv.stepS4 (h : Inv cfg s) (hs : s.step = some .s4) : Inv cfg (stepS4 cfg s) := by
  have hp := h.pinsIdle_at hs rfl
  unfold Machine.stepS4
  dsimp only
  split
  · exact (h.going hs).inv_idle (st := .s5) hp ⟨h.sendReady (.inr (.inl hs)), fun hu => absurd hu not_polling_modeWrite⟩
  · exact (h.going hs).inv_idle (st := .s9) hp trivial

/-- The symbol loop begins on a READY block with Transmit written (41 R144). -/
theorem Inv.stepS5 (h : Inv cfg s) (hs : s.step = some .s5) (hreps : 0 < cfg.reps) : Inv cfg (stepS5 cfg s) := by
  refine h.enterModeInstant hs rfl (fun t hgoing hp hrstate hradio => ?_) fun t hgoing hp =>
    hgoing.inv_idle (st := .s9) hp trivial
  exact hgoing.inv_idle (st := .s6) hp ⟨hreps, hrstate.trans (h.sendReady (.inr (.inr hs))), hradio⟩

theorem Inv.stepS6 (h : Inv cfg s) (hs : s.step = some .s6) (hreps : cfg.reps ≤ 8) : Inv cfg (stepS6 cfg s) := by
  have hgoing := h.going hs
  have hcs := h.pinCs_high (by simp [atBus, hs, entering, writesAt])
  have hreset : s.pinReset = false := h.pinReset_low (by simp [hs])
  have hdemands : Demands cfg .s6 s.sub s := h.demands hs
  unfold Machine.stepS6
  split
  next =>
    have hheld := hgoing.hold (us := cfg.symbolUs) (by simp [eventAllowed])
    by_cases hl : s.idx.val + 1 < 166
    · rw [nextSymbol_of_lt (s := hold cfg.symbolUs s) rfl hl]
      refine Going.inv hheld.congr hcs (by simp [hreset]) (fun _ => ⟨rfl, by decide, fun _ h0 => ?_⟩) hdemands
      exact Nat.succ_ne_zero s.idx.val (congrArg Fin.val h0)
    · rw [nextSymbol_of_last (s := hold cfg.symbolUs s) rfl hl]
      exact hheld.inv hcs (by simp [hreset]) (by simp) hdemands
  next =>
    exact (hgoing.pinWrite (p := .data) (by decide) false).inv_idle ⟨hcs, hreset, rfl⟩ hdemands
  next hsub =>
    have hdata : s.pinData = false := by
      cases hd : s.pinData
      · rfl
      · obtain ⟨_, hgap, _⟩ := h.dataPin hd
        exact absurd hsub hgap
    have hheld := hgoing.hold (us := cfg.gapUs) (by simp [eventAllowed])
    unfold nextRepetition
    split
    next hlt =>
      have hrep : (Fin.ofNat 8 (s.rep.val + 1)).val < cfg.reps := by
        rw [hold_rep] at hlt
        rwa [Fin.val_ofNat, Nat.mod_eq_of_lt (by omega)]
      obtain ⟨_, hready⟩ := hdemands
      exact hheld.inv_idle (st := .s6) ⟨hcs, hreset, hdata⟩ ⟨hrep, hready⟩
    next => exact hheld.inv_idle (st := .s7) ⟨hcs, hreset, hdata⟩ fun hu => absurd hu not_polling_modeWrite
  next =>
    exact (hgoing.pinWrite (by decide) _).inv hcs (by simp [hreset]) (by simp) hdemands

theorem Inv.stepS8 (h : Inv cfg s) (hs : s.step = some .s8) : Inv cfg (stepS8 s) := by
  have hp := h.pinsIdle_at hs rfl
  unfold Machine.stepS8
  split <;> exact (h.going hs).inv_idle (st := .s9) hp trivial

/-! ### The instant -/

/-- Every action of the sequencer keeps the invariant, by its pc. -/
theorem Inv.sequence (hc : configWf cfg = true) (hown : ownOpmode cfg = true) (h : Inv cfg s) :
    Inv cfg (sequence cfg s) := by
  obtain ⟨-, -, hreps, hreps8⟩ := configWf_bounds hc
  unfold Machine.sequence
  rcases hs : s.step with _ | st
  · exact h
  have hgoing := h.going hs
  cases st
  case b1 => exact hgoing.inv_idle (st := .b2) (h.pinsIdle_at hs rfl) trivial
  case b2 => exact h.stepB2 hs
  case b3 =>
    have hp := h.pinsIdle_at hs rfl
    have hheld := hgoing.hold (us := cfg.tRstWaitUs) (by simp [eventAllowed])
    exact hheld.inv_idle (st := .b4) ⟨hp.cs, hp.reset, hp.data⟩ trivial
  case b4 => exact h.stepB4 hs
  case b5 => exact h.stepB5 hs
  case b6 => exact h.stepB6 hs
  case b7 | b8 | b9 | b10 =>
    exact h.writesInstant hs hown rfl rfl (by decide) (by decide) fun _ hg hp hradio =>
      hg.inv_idle hp fun hsb => hradio.trans (h.demands hs hsb)
  case b11 => exact h.stepB11 hs hown
  case b12 =>
    exact h.enterModeInstant hs rfl (fun _ hg hp _ _ => hg.inv_idle (st := .b13) hp trivial)
      fun _ hg hp => hg.inv_beginFails hp
  case b13 => exact hgoing.inv_idle (st := .b14) (h.pinsIdle_at hs rfl) trivial
  case b14 => exact hgoing.inv_complete (h.pinsIdle_at hs rfl) s.r
  case s1 => exact hgoing.inv_idle (st := .s2) (h.pinsIdle_at hs rfl) trivial
  case s2 => exact h.stepS2 hs
  case s3 => exact h.stepS3 hs
  case s4 => exact h.stepS4 hs
  case s5 => exact h.stepS5 hs hreps
  case s6 => exact h.stepS6 hs hreps8
  case s7 =>
    exact h.enterModeInstant hs rfl (fun _ hg hp _ _ => hg.inv_idle (st := .s8) hp trivial)
      fun _ hg hp => hg.inv_idle (st := .s8) hp trivial
  case s8 => exact h.stepS8 hs
  case s9 => exact hgoing.inv_complete (h.pinsIdle_at hs rfl) false
  case t1 => exact hgoing.inv_complete (h.pinsIdle_at hs rfl) (readyOut s)

/-- An instant is the reset input or one action of the sequencer, and both keep the invariant. -/
theorem Inv.tick (hc : configWf cfg = true) (hown : ownOpmode cfg = true) (h : Inv cfg s) : Inv cfg (tick cfg s) := by
  rcases tick_cases cfg s with ⟨_, _, htick⟩ | ⟨_, htick⟩
  · exact htick ▸ h.passInstant.applyReset
  · exact htick ▸ h.passInstant.sequence hc hown

end

/-- Settles O54, by the case of each step of the sequencer. -/
theorem invariantKeptByEveryInstant : Obligations.InvariantKeptByEveryInstant :=
  fun _ hc hown _ h => h.tick hc hown

/-- Settles O53: the reset state is idle, with idle pins, no mode known and one `Reset` event. -/
theorem invariantHoldsAtReset : Obligations.InvariantHoldsAtReset := ⟨inv_reset Config.hw, rfl, rfl⟩

end Sys2Proof.Safety

namespace Sys2Proof.Machine

open Sys2Proof.Safety

/-! ### The state after reset and the output codes (10 R21, R24, R25, R28; 30 R96) -/

/-- Settles O10: each field of the state table, in its order. -/
theorem resetStateValues : Obligations.ResetStateValues :=
  ⟨rfl, rfl, rfl, rfl, rfl, rfl, rfl, rfl, rfl, rfl, rfl, rfl, rfl, rfl, rfl, rfl, rfl, rfl, rfl, rfl⟩

theorem readyOut_iff (s : State) : readyOut s = true ↔ s.rstate = .ready := beq_iff_eq

/-- Code 7 is reserved (10 R28). -/
theorem errCode_ne_seven (e : ErrCode) : errCode e ≠ 7 := by cases e <;> decide

/-- Settles O52: the tables of 10 R24 and R28 row by row, and the two outputs' tests. -/
theorem outputCodes : Obligations.OutputCodes :=
  ⟨rfl, rfl, rfl, rfl, rfl, rfl, rfl, rfl, rfl, rfl, errCode_ne_seven, readyOut_iff, fun _ => rfl⟩

/-! ### What the instructions of the two interfaces mean -/

/-- The acceptance of a request word (43 R190). -/
def IsAcceptance (f : State → State) : Prop := f = acceptBegin ∨ (∃ c, f = acceptSend c) ∨ f = acceptStatus

theorem IsAcceptance.rstate_busy {f : State → State} (hf : IsAcceptance f) (s : State) :
    (f s).rstate = s.rstate ∧ (f s).busy = true := by
  rcases hf with rfl | ⟨c, rfl⟩ | rfl <;> exact ⟨rfl, rfl⟩

/-- Each of the sixteen codes has a SEND row, which sends it (30 R85, R86). -/
theorem exec_sendOfCode (c : BitVec 4) :
    sendOfCode c ∈ acceptedRequests ∧ ∀ s, exec (sendOfCode c) s = .next (send Config.hw c s) := by
  have hmem : ∀ c : BitVec 4, sendOfCode c ∈ acceptedRequests := by decide
  refine ⟨hmem c, fun s => ?_⟩
  obtain ⟨n, hn⟩ := c
  interval_cases n <;> rfl

/-- A request word is ignored, or it is a request and runs as the operation it accepts (30 R82, 43 R190, R196). -/
theorem exec_decodeRequest (w : Byte) :
    (∀ s, exec (decodeRequest w) s = .next s) ∨
      decodeRequest w ∈ acceptedRequests ∧
        ∃ f, IsAcceptance f ∧ ∀ s, exec (decodeRequest w) s = .next (request Config.hw f s) := by
  unfold decodeRequest
  split_ifs
  · exact .inl fun _ => rfl
  · exact .inl fun _ => rfl
  · exact .inl fun _ => rfl
  · exact .inl fun _ => rfl
  · exact .inl fun _ => rfl
  · exact .inr ⟨by decide, acceptBegin, .inl rfl, fun _ => rfl⟩
  · exact .inl fun _ => rfl
  · exact .inr ⟨by decide, acceptStatus, .inr (.inr rfl), fun _ => rfl⟩
  · exact .inl fun _ => rfl
  · obtain ⟨hmem, hexec⟩ := exec_sendOfCode (reqArg w)
    exact .inr ⟨hmem, acceptSend (reqArg w), .inr (.inl ⟨_, rfl⟩), hexec⟩

/-- A bus frame runs as one register transaction (30 R90 to R95). -/
theorem exec_frameInstr (f : BitVec 16) :
    (∃ a, ∀ s, exec (frameInstr f) s = .next (busRead a s)) ∨
      ∃ a v, ∀ s, exec (frameInstr f) s = .next (busWrite Config.hw a v s) := by
  unfold frameInstr decodeFrame
  split_ifs
  · exact .inr ⟨_, _, fun _ => rfl⟩
  · exact .inr ⟨_, _, fun _ => rfl⟩
  · exact .inr ⟨_, _, fun _ => rfl⟩
  · exact .inr ⟨_, _, fun _ => rfl⟩
  · exact .inl ⟨_, fun _ => rfl⟩

/-! ### One step, by what it finds to do -/

theorem step_of_frame {s : State} {f : BitVec 16} (hi : s.issue = some f) :
    step s = exec (frameInstr f) (takeFrame s) := by
  simp only [step, fetch, hi]

theorem step_of_busy {s : State} (hi : s.issue = none) (hb : s.busy = true) :
    step s = if s.step.isSome then .next (finish Config.hw s) else .fault .lostStep := by
  simp only [step, fetch, hi, hb, if_true]

/-- An idle engine lets the instant pass, is reset, or runs the operation it accepts. -/
theorem step_of_idle {s : State} (hi : s.issue = none) (hb : s.busy = false) :
    step s = .next (passInstant s) ∨
    (∃ rest, s.hostIn = .reset :: rest ∧ step s = .next (applyReset (passInstant s))) ∨
    ∃ w rest f, s.hostIn = .word w :: rest ∧ decodeRequest w ∈ acceptedRequests ∧ IsAcceptance f ∧
      step s = .next (finish Config.hw (f (passInstant s))) := by
  rcases hh : s.hostIn with _ | ⟨_ | w | _, rest⟩
  · exact .inl (by simp [step, fetch, hi, hb, hh])
  · exact .inl (by simp [step, fetch, hi, hb, hh])
  · have hstep : step s = exec (decodeRequest w) (passInstant s) := by simp [step, fetch, hi, hb, hh]
    rcases exec_decodeRequest w with hignored | ⟨hmem, f, hf, hexec⟩
    · exact .inl (hstep.trans (hignored _))
    · refine .inr (.inr ⟨w, rest, f, rfl, hmem, hf, ?_⟩)
      rw [hstep, hexec, request_idle Config.hw f (s := passInstant s) hb]
  · exact .inr (.inl ⟨rest, rfl, by simp [step, fetch, hi, hb, hh]⟩)

/-! ### The IRQ input and the frame slot: nothing in an operation looks at them (10 R34; log 5, log 11) -/

/-- The same state with another level on IRQ and another frame in the slot. -/
def withPorts (b : Bool) (f : Option (BitVec 16)) (s : State) : State := { s with irq := b, issue := f }

@[simp] theorem withPorts_step (b : Bool) (f : Option (BitVec 16)) (s : State) : (withPorts b f s).step = s.step := rfl
@[simp] theorem withPorts_sub (b : Bool) (f : Option (BitVec 16)) (s : State) : (withPorts b f s).sub = s.sub := rfl
@[simp] theorem withPorts_hostIn (b : Bool) (f : Option (BitVec 16)) (s : State) :
    (withPorts b f s).hostIn = s.hostIn := rfl

/-- A part of the machine that neither looks at the two ports nor changes them. -/
def PortBlind (f : State → State) : Prop := ∀ b i s, f (withPorts b i s) = withPorts b i (f s)

namespace PortBlind

theorem issue {f : State → State} (hf : PortBlind f) (s : State) : (f s).issue = s.issue := by
  have h : f s = withPorts s.irq s.issue (f s) := hf s.irq s.issue s
  rw [h]
  rfl

theorem irq {f : State → State} (hf : PortBlind f) (b : Bool) (s : State) :
    f { s with irq := b } = { f s with irq := b } := by
  have h : f { s with irq := b } = withPorts b s.issue (f s) := hf b s.issue s
  rw [h, ← hf.issue s]
  rfl

theorem comp {f g : State → State} (hg : PortBlind g) (hf : PortBlind f) : PortBlind (fun s => g (f s)) :=
  fun b i s => (congrArg g (hf b i s)).trans (hg b i (f s))

/-- A branch on a condition that does not look at the ports either. -/
theorem ite {c : State → Prop} [DecidablePred c] {f g : State → State} (hc : ∀ b i s, c (withPorts b i s) ↔ c s)
    (hf : PortBlind f) (hg : PortBlind g) : PortBlind (fun s => if c s then f s else g s) := by
  intro b i s
  by_cases hs : c s
  · simpa [hs, hc] using hf b i s
  · simpa [hs, hc] using hg b i s

theorem readTransfer (a : RegAddr) : PortBlind (readTransfer a) := by
  intro b i s
  unfold Machine.readTransfer
  rw [takeAnswer_eq, takeAnswer_eq]
  rfl

theorem pollBegin (m : Mode) : PortBlind (pollBegin m) := by
  intro b i s
  unfold Machine.pollBegin
  rw [takeReading_eq, takeReading_eq]
  rfl

theorem pollNow (cfg : Config) : PortBlind (pollNow cfg) := by
  intro b i s
  unfold Machine.pollNow
  rw [takeReading_eq, takeReading_eq]
  rfl

theorem goto (st : Step) (u : Sub) : PortBlind (goto st u) := fun _ _ _ => rfl

theorem setErr (e : ErrCode) : PortBlind (setErr e) := fun _ _ _ => rfl

theorem beginFails : PortBlind beginFails := fun _ _ _ => rfl

theorem busInstant {f : State → State} (hf : PortBlind f) : PortBlind (busInstant f) :=
  ite (fun _ _ _ => Iff.rfl) (fun _ _ _ => rfl) hf

theorem writesInstant (cfg : Config) (ws : List (RegAddr × Byte)) (here : Step) {next : State → State}
    (hn : PortBlind next) : PortBlind (writesInstant cfg ws here next) := by
  intro b i s
  simp only [Machine.writesInstant, withPorts_sub]
  rcases ws[subIndex s.sub]? with _ | ⟨a, v⟩
  · exact hn b i s
  · have hw : PortBlind (writeTransfer cfg a v) := fun _ _ _ => rfl
    exact busInstant (ite (fun _ _ _ => Iff.rfl) (fun _ _ _ => rfl) (hn.comp hw)) b i s

theorem enterModeInstant (cfg : Config) (m : Mode) (here : Step) {yes no : State → State}
    (hy : PortBlind yes) (hn : PortBlind no) : PortBlind (enterModeInstant cfg m here yes no) := by
  have hread := readTransfer cfg.regStatus
  have hready : ∀ b i s, modeReady (Machine.readTransfer cfg.regStatus (withPorts b i s)).rdata = true ↔
      modeReady (Machine.readTransfer cfg.regStatus s).rdata = true := fun b i s => by rw [hread]; rfl
  have hok : PortBlind pollOk := fun _ _ _ => rfl
  have hfail : PortBlind (pollFail m) := fun _ _ _ => rfl
  intro b i s
  simp only [Machine.enterModeInstant, withPorts_sub]
  cases s.sub
  case pollStart => exact (goto here .pollRead).comp (pollBegin m) b i s
  case pollRead =>
    exact busInstant (ite hready (hy.comp (hok.comp hread)) ((goto here .pollTest).comp hread)) b i s
  case pollTest =>
    exact ite (c := fun s => timedOut cfg s.t0 (testReading cfg s) = true) (fun _ _ _ => Iff.rfl)
      (hn.comp (hfail.comp (pollNow cfg))) ((goto here .pollRead).comp (pollNow cfg)) b i s
  all_goals exact busInstant (fun _ _ _ => rfl) b i s

theorem stepS4 (cfg : Config) : PortBlind (stepS4 cfg) := by
  intro b i s
  have hbuilt : (buildInto cfg (withPorts b i s).lookup (withPorts b i s)).built = (buildInto cfg s.lookup s).built := rfl
  simp only [Machine.stepS4, hbuilt]
  split <;> rfl

theorem nextSymbol : PortBlind nextSymbol := by
  intro b i s
  by_cases hl : s.idx.val + 1 < 166
  · rw [nextSymbol_of_lt (s := withPorts b i s) rfl hl, nextSymbol_of_lt rfl hl]; rfl
  · rw [nextSymbol_of_last (s := withPorts b i s) rfl hl, nextSymbol_of_last rfl hl]; rfl

theorem nextRepetition (cfg : Config) : PortBlind (nextRepetition cfg) :=
  ite (fun _ _ _ => Iff.rfl) (fun _ _ _ => rfl) (fun _ _ _ => rfl)

theorem stepS6 (cfg : Config) : PortBlind (stepS6 cfg) := by
  have hhold : ∀ us, PortBlind (hold us) := fun _ _ _ _ => rfl
  intro b i s
  simp only [Machine.stepS6, withPorts_sub]
  cases s.sub
  case symHold => exact nextSymbol.comp (hhold cfg.symbolUs) b i s
  case gapHold => exact (nextRepetition cfg).comp (hhold cfg.gapUs) b i s
  all_goals rfl

/-- The sequencer looks at neither port. -/
theorem sequence (cfg : Config) : PortBlind (sequence cfg) := by
  intro b i s
  simp only [Machine.sequence, withPorts_step]
  rcases s.step with _ | st
  · rfl
  cases st
  case b2 =>
    simp only [stepB2, withPorts_sub]
    split <;> rfl
  case b4 =>
    have hrecord : PortBlind (fun s => Machine.goto .b5 (.item 0) (recordId s)) := fun _ _ _ => rfl
    exact busInstant (hrecord.comp (readTransfer cfg.regVersion)) b i s
  case b5 =>
    exact ite (c := fun s => idMatches s.idSeen = true) (fun _ _ _ => Iff.rfl) (goto .b6 .modeWrite)
      (beginFails.comp (setErr .idMismatch)) b i s
  case b6 =>
    exact ite (c := fun _ => cfg.beginEntersStandby = true) (fun _ _ _ => Iff.rfl)
      (enterModeInstant cfg .standby .b6 (goto _ _) beginFails) (goto _ _) b i s
  case b7 | b8 | b9 | b10 | b11 => exact writesInstant cfg _ _ (goto _ _) b i s
  case b12 => exact enterModeInstant cfg .sleep .b12 (goto _ _) beginFails b i s
  case s2 =>
    exact ite (c := fun s => readyOut s = true) (fun _ _ _ => Iff.rfl) (goto .s3 (.item 0))
      ((goto .s9 (.item 0)).comp (setErr .notReady)) b i s
  case s3 =>
    have hlookup : PortBlind (fun s => lookupInto cfg s.cmd s) := fun _ _ _ => rfl
    exact ite (c := fun s => (lookupInto cfg s.cmd s).lookup.isNone = true) (fun _ _ _ => Iff.rfl)
      ((goto .s9 (.item 0)).comp ((setErr .unknownCmd).comp hlookup)) ((goto .s4 (.item 0)).comp hlookup) b i s
  case s4 => exact stepS4 cfg b i s
  case s5 => exact enterModeInstant cfg .transmit .s5 (fun _ _ _ => rfl) (goto _ _) b i s
  case s6 => exact stepS6 cfg b i s
  case s7 => exact enterModeInstant cfg .sleep .s7 (goto _ _) (goto _ _) b i s
  case s8 =>
    have herr : PortBlind (fun s => if s.ok then Machine.setErr .none s else s) :=
      ite (fun _ _ _ => Iff.rfl) (setErr .none) (fun _ _ _ => rfl)
    exact (goto .s9 (.item 0)).comp herr b i s
  all_goals rfl

theorem passInstant : PortBlind passInstant := fun _ _ _ => rfl

theorem applyReset : PortBlind applyReset := fun _ _ _ => rfl

theorem tick (cfg : Config) : PortBlind (tick cfg) := by
  intro b i s
  rcases tick_cases cfg s with ⟨rest, hreset, htick⟩ | ⟨hquiet, htick⟩
  · rw [htick, tick_reset cfg (s := withPorts b i s) hreset]
    exact applyReset.comp passInstant b i s
  · rw [htick, tick_sequence cfg (s := withPorts b i s) hquiet]
    exact (sequence cfg).comp passInstant b i s

theorem runOp (cfg : Config) (n : Nat) : PortBlind (runOp cfg n) := by
  induction n with
  | zero => exact fun _ _ _ => rfl
  | succ n ih => exact ite (fun _ _ _ => Iff.rfl) (ih.comp (tick cfg)) (fun _ _ _ => rfl)

theorem finish (cfg : Config) : PortBlind (finish cfg) := runOp cfg (opInstants cfg)

theorem of_isAcceptance {f : State → State} (hf : IsAcceptance f) : PortBlind f := by
  rcases hf with rfl | ⟨c, rfl⟩ | rfl <;> exact fun _ _ _ => rfl

theorem request (cfg : Config) {f : State → State} (hf : PortBlind f) : PortBlind (request cfg f) :=
  ite (fun _ _ _ => Iff.rfl) (fun _ _ _ => rfl) ((finish cfg).comp hf)

/-- What a request word means looks at neither port. -/
theorem of_decodeRequest (w : Byte) : ∃ g, PortBlind g ∧ ∀ s, exec (decodeRequest w) s = .next (g s) := by
  rcases exec_decodeRequest w with hignored | ⟨_, f, hf, hexec⟩
  · exact ⟨id, fun _ _ _ => rfl, hignored⟩
  · exact ⟨_, (of_isAcceptance hf).request Config.hw, hexec⟩

/-- What a bus frame means looks at neither port. -/
theorem of_frameInstr (f : BitVec 16) : ∃ g, PortBlind g ∧ ∀ s, exec (frameInstr f) s = .next (g s) := by
  have hcs : PortBlind csAssert := fun _ _ _ => rfl
  rcases exec_frameInstr f with ⟨a, hexec⟩ | ⟨a, v, hexec⟩
  · exact ⟨_, (readTransfer a).comp hcs, hexec⟩
  · exact ⟨_, fun _ _ _ => rfl, hexec⟩

end PortBlind

/-- Settles O14: each thing `step` can find to do leads to an action that does not look at the level. -/
theorem irqHasNoEffect : Obligations.IrqHasNoEffect := by
  intro s b
  have hfetch : fetch { s with irq := b } = fetch s := rfl
  unfold step
  rw [hfetch]
  cases fetch s
  case frame f =>
    obtain ⟨g, hg, hexec⟩ := PortBlind.of_frameInstr f
    simp only [hexec]
    exact congrArg _ (hg.irq b (takeFrame s))
  case operation =>
    by_cases hs : s.step.isSome = true
    · simp only [hs, if_true]
      exact congrArg _ ((PortBlind.finish Config.hw).irq b s)
    · simp only [hs]
      rfl
  case word w =>
    obtain ⟨g, hg, hexec⟩ := PortBlind.of_decodeRequest w
    simp only [hexec]
    exact congrArg _ (hg.irq b (passInstant s))
  all_goals rfl

/-! ### A whole step keeps the invariant -/

section
variable {cfg : Config} {s : State}

theorem inv_runOp (hc : configWf cfg = true) (hown : ownOpmode cfg = true) (n : Nat) (h : Inv cfg s) :
    Inv cfg (runOp cfg n s) := by
  induction n generalizing s with
  | zero => exact h
  | succ n ih =>
    rw [runOp_succ]
    split
    · exact ih (h.tick hc hown)
    · exact h

/-- The state of an operation just accepted, before its pc is set (43 R190). -/
def started (o : Op) (w : Byte) (s : State) : State := emit (.req w) { s with busy := true, op := o, done := false }

theorem accept_eq_goto (o : Op) (w : Byte) (st : Step) (s : State) :
    accept o w st s = goto st (.item 0) (started o w s) := rfl

theorem acceptSend_eq_goto (c : BitVec 4) (s : State) :
    acceptSend c s = goto .s2 (.item 0) (setCmd c (started .send (sendWord c) s)) := rfl

theorem going_started (h : Inv cfg s) (o : Op) (w : Byte) : Going cfg o (started o w s) :=
  have hbusy : Going cfg o { s with busy := true, op := o, done := false } := ⟨rfl, rfl, rfl, h.radio, h.events⟩
  hbusy.emit rfl

/-- Acceptance starts an operation with every pin idle, at a step that demands nothing. -/
theorem inv_accept (h : Inv cfg s) (hb : s.busy = false) {f : State → State} (hf : IsAcceptance f) : Inv cfg (f s) := by
  have hp : PinsIdle s := h.pinsIdle_of_no_step ((pcLegal_of_idle hb).mp h.pc).2
  have hstarted : ∀ o w, PinsIdle (started o w s) := fun _ _ => ⟨hp.cs, hp.reset, hp.data⟩
  rcases hf with rfl | ⟨c, rfl⟩ | rfl
  · rw [acceptBegin, accept_eq_goto]
    exact (going_started h .begin _).inv_idle (hstarted _ _) trivial
  · rw [acceptSend_eq_goto]
    exact (going_started h .send _).inv_idle (hstarted _ _) trivial
  · rw [acceptStatus, accept_eq_goto]
    exact (going_started h .status _).inv_idle (hstarted _ _) trivial

theorem ownOpmode_hw : ownOpmode Config.hw = true := by decide

theorem inv_finish_hw (h : Inv Config.hw s) : Inv Config.hw (finish Config.hw s) :=
  inv_runOp configWf_hw ownOpmode_hw _ h

end

/-- Settles O55: the operation's instants by O54, what is outside them case by case. -/
theorem invariantKeptByEveryStep : Obligations.InvariantKeptByEveryStep := by
  intro s t h hi hstep
  cases hb : s.busy
  case true =>
    rw [step_of_busy hi hb] at hstep
    split at hstep <;> cases hstep
    exact ⟨inv_finish_hw h, ((PortBlind.finish Config.hw).issue s).trans hi⟩
  case false =>
    rcases step_of_idle hi hb with he | ⟨rest, _, he⟩ | ⟨w, rest, f, _, _, hf, he⟩ <;> cases he.symm.trans hstep
    · exact ⟨h.passInstant, hi⟩
    · exact ⟨h.passInstant.applyReset, hi⟩
    · have hblind := ((PortBlind.finish Config.hw).comp (PortBlind.of_isAcceptance hf)).comp PortBlind.passInstant
      exact ⟨inv_finish_hw (inv_accept h.passInstant hb hf), (hblind.issue s).trans hi⟩

/-! ### How the readiness latch changes (10 R26) -/

@[simp] theorem beginFails_rstate (s : State) : (beginFails s).rstate = s.rstate := rfl
@[simp] theorem beginFails_err (s : State) : (beginFails s).err = s.err := rfl
@[simp] theorem recordId_rstate (s : State) : (recordId s).rstate = s.rstate := rfl
@[simp] theorem lookupInto_rstate (cfg : Config) (c : BitVec 4) (s : State) :
    (lookupInto cfg c s).rstate = s.rstate := rfl
@[simp] theorem buildInto_rstate (cfg : Config) (p : Option Payload) (s : State) :
    (buildInto cfg p s).rstate = s.rstate := rfl

@[simp] theorem nextSymbol_rstate (s : State) : (nextSymbol s).rstate = s.rstate := by
  unfold nextSymbol
  split <;> simp

@[simp] theorem nextRepetition_rstate (cfg : Config) (s : State) : (nextRepetition cfg s).rstate = s.rstate := by
  unfold nextRepetition
  split <;> simp

theorem busInstant_rstate {transfer : State → State} {s : State} (h : (transfer s).rstate = s.rstate) :
    (busInstant transfer s).rstate = s.rstate := by
  unfold busInstant
  split
  · rfl
  · exact h

theorem writesInstant_rstate (cfg : Config) (ws : List (RegAddr × Byte)) (here : Step) {next : State → State}
    (hnext : ∀ s, (next s).rstate = s.rstate) (s : State) : (writesInstant cfg ws here next s).rstate = s.rstate := by
  unfold writesInstant
  split
  next =>
    refine busInstant_rstate ?_
    split
    · rfl
    · exact hnext _
  next => exact hnext s

/-- The time test of the mode entry at `s` has timed out, and `t` is the failure it leads to (42 R161). -/
def PollTimesOut (cfg : Config) (m : Mode) (s t : State) : Prop :=
  s.sub = .pollTest ∧ timedOut cfg s.t0 (testReading cfg s) = true ∧ t.rstate = .faulted ∧ t.err = timeoutCode m

theorem enterModeInstant_rstate (cfg : Config) (m : Mode) (here : Step) {yes no : State → State}
    (hyes : ∀ s, (yes s).rstate = s.rstate) (hno : ∀ s, (no s).rstate = s.rstate ∧ (no s).err = s.err) (s : State) :
    (enterModeInstant cfg m here yes no s).rstate = s.rstate ∨
      PollTimesOut cfg m s (enterModeInstant cfg m here yes no s) := by
  unfold enterModeInstant
  split
  next => exact .inl (pollBegin_rstate m s)
  next =>
    refine .inl (busInstant_rstate ?_)
    dsimp only
    split
    · rw [hyes, pollOk_rstate, readTransfer_rstate]
    · rw [goto_rstate, readTransfer_rstate]
  next hsub =>
    split
    next htime =>
      obtain ⟨hrstate, herr⟩ := hno (pollFail m (pollNow cfg s))
      exact .inr ⟨hsub, htime, hrstate, herr⟩
    next => exact .inl (pollNow_rstate cfg s)
  next => exact .inl (busInstant_rstate rfl)

/-- The ways one action of the sequencer can leave the latch. -/
def LatchStep (cfg : Config) (s t : State) : Prop :=
  t.rstate = s.rstate ∨ (s.step = some .b13 ∧ t.rstate = .ready) ∨
    ∃ m, entering cfg s.step = some m ∧ PollTimesOut cfg m s t

/-- A step that enters a mode changes the latch by its poll alone. -/
theorem LatchStep.of_enterMode {cfg : Config} {s : State} {here : Step} {m : Mode} (hs : s.step = some here)
    (hent : entering cfg (some here) = some m) {yes no : State → State} (hyes : ∀ s, (yes s).rstate = s.rstate)
    (hno : ∀ s, (no s).rstate = s.rstate ∧ (no s).err = s.err) :
    LatchStep cfg s (enterModeInstant cfg m here yes no s) :=
  (enterModeInstant_rstate cfg m here hyes hno s).imp_right fun hpoll => .inr ⟨m, hs ▸ hent, hpoll⟩

theorem stepB2_rstate (cfg : Config) (s : State) : (stepB2 cfg s).rstate = s.rstate := by
  unfold stepB2
  split <;> simp

theorem stepB4_rstate (cfg : Config) (s : State) : (stepB4 cfg s).rstate = s.rstate :=
  busInstant_rstate (by simp)

theorem stepB5_rstate (s : State) : (stepB5 s).rstate = s.rstate := by
  unfold stepB5
  split <;> simp

theorem stepS2_rstate (s : State) : (stepS2 s).rstate = s.rstate := by
  unfold stepS2
  split <;> simp

theorem stepS3_rstate (cfg : Config) (s : State) : (stepS3 cfg s).rstate = s.rstate := by
  unfold stepS3
  dsimp only
  split <;> simp

theorem stepS4_rstate (cfg : Config) (s : State) : (stepS4 cfg s).rstate = s.rstate := by
  unfold stepS4
  dsimp only
  split <;> simp

theorem stepS6_rstate (cfg : Config) (s : State) : (stepS6 cfg s).rstate = s.rstate := by
  unfold stepS6
  split <;> simp

theorem stepS8_rstate (s : State) : (stepS8 s).rstate = s.rstate := by
  unfold stepS8
  split <;> simp

/-- Every action of the sequencer, by its pc: only B13 and a poll that times out change the latch. -/
theorem sequence_latchStep (cfg : Config) (s : State) : LatchStep cfg s (sequence cfg s) := by
  unfold sequence
  rcases hs : s.step with _ | st
  · exact .inl rfl
  cases st
  case b2 => exact .inl (stepB2_rstate cfg s)
  case b4 => exact .inl (stepB4_rstate cfg s)
  case b5 => exact .inl (stepB5_rstate s)
  case b6 =>
    dsimp only
    unfold stepB6
    split
    next hsb => exact .of_enterMode hs (if_pos hsb) (fun _ => rfl) fun _ => ⟨rfl, rfl⟩
    next => exact .inl rfl
  case b7 | b8 | b9 | b10 | b11 => exact .inl (writesInstant_rstate cfg _ _ (goto_rstate _ _) s)
  case b12 | s5 | s7 => exact .of_enterMode hs rfl (fun _ => rfl) fun _ => ⟨rfl, rfl⟩
  case b13 => exact .inr (.inl ⟨hs, rfl⟩)
  case s2 => exact .inl (stepS2_rstate s)
  case s3 => exact .inl (stepS3_rstate cfg s)
  case s4 => exact .inl (stepS4_rstate cfg s)
  case s6 => exact .inl (stepS6_rstate cfg s)
  case s8 => exact .inl (stepS8_rstate s)
  all_goals exact .inl rfl

/-- Settles O58: the instants by the latch's steps, the rest by what `step` finds to do. -/
theorem readinessChangesInThreeWays : Obligations.ReadinessChangesInThreeWays := by
  refine ⟨fun cfg s hne => ?_, fun s t hi hb hstep hne => ?_, fun s f t hi hstep => ?_⟩
  · rcases tick_cases cfg s with ⟨rest, hreset, htick⟩ | ⟨_, htick⟩ <;> rw [htick] at hne ⊢
    · exact .inl ⟨⟨rest, hreset⟩, rfl⟩
    · rcases sequence_latchStep cfg (passInstant s) with hsame | hb13 | ⟨m, hent, hsub, htime, hfaulted, herr⟩
      · exact absurd hsame hne
      · exact .inr (.inl hb13)
      · exact .inr (.inr ⟨m, hent, hsub, htime, hfaulted, herr⟩)
  · rcases step_of_idle hi hb with he | ⟨rest, hreset, he⟩ | ⟨w, rest, f, hword, hmem, hf, he⟩ <;>
      cases he.symm.trans hstep
    · exact absurd rfl hne
    · exact .inl ⟨⟨rest, hreset⟩, rfl⟩
    · obtain ⟨hrstate, hbusy⟩ := hf.rstate_busy (passInstant s)
      refine .inr ⟨w, rest, f (passInstant s), hword, hmem, ?_, hrstate, hbusy, rfl⟩
      exact hf.imp (congrFun · _) (.imp (fun ⟨c, hc⟩ => ⟨c, congrFun hc _⟩) (congrFun · _))
  · rw [step_of_frame hi] at hstep
    rcases exec_frameInstr f with ⟨a, he⟩ | ⟨a, v, he⟩ <;> cases (he _).symm.trans hstep
    · simp [busRead_eq, takeFrame]
    · rfl

end Sys2Proof.Machine

namespace Sys2Proof.Machine

/-! ### The bytes of a word (00 R9) and their order (20 R63) -/

theorem byteOf_toNat (w k : Nat) : (byteOf w k).toNat = w / 2 ^ (8 * k) % 256 :=
  BitVec.toNat_ofNat ..

/-- The most significant byte of a word that fits loses no bit. -/
theorem byteOf_toNat_top {w k : Nat} (h : w < 2 ^ (8 * (k + 1))) : (byteOf w k).toNat = w / 2 ^ (8 * k) := by
  rw [byteOf_toNat]
  refine Nat.mod_eq_of_lt (Nat.div_lt_of_lt_mul ?_)
  rwa [Nat.mul_succ, Nat.pow_add] at h

/-- One byte appended below those above it: the step by which the bytes of any word make it up again. -/
theorem div_mul_add_byteOf (w k : Nat) :
    w / 2 ^ (8 * (k + 1)) * 256 + (byteOf w k).toNat = w / 2 ^ (8 * k) := by
  rw [byteOf_toNat, Nat.mul_succ 8, Nat.pow_add, ← Nat.div_div_eq_div_mul]
  exact Nat.div_add_mod' ..

theorem two_bytes_recompose {w : Nat} (h : w < 2 ^ 16) : (byteOf w 1).toNat * 256 + (byteOf w 0).toNat = w := by
  have top : (byteOf w 1).toNat = w / 2 ^ (8 * 1) := byteOf_toNat_top (k := 1) h
  rw [top, div_mul_add_byteOf w 0]
  exact Nat.div_one w

theorem three_bytes_recompose {w : Nat} (h : w < 2 ^ 24) :
    (byteOf w 2).toNat * 65536 + (byteOf w 1).toNat * 256 + (byteOf w 0).toNat = w := by
  have top : (byteOf w 2).toNat = w / 2 ^ (8 * 2) := byteOf_toNat_top (k := 2) h
  calc (byteOf w 2).toNat * 65536 + (byteOf w 1).toNat * 256 + (byteOf w 0).toNat
    _ = ((byteOf w 2).toNat * 256 + (byteOf w 1).toNat) * 256 + (byteOf w 0).toNat := by omega
    _ = w / 2 ^ (8 * 1) * 256 + (byteOf w 0).toNat := by rw [top, div_mul_add_byteOf w 1]
    _ = w / 2 ^ (8 * 0) := div_mul_add_byteOf w 0
    _ = w := Nat.div_one w

/-- Settles O50: the bytes by recomposition, the writes as the two tables list them. -/
theorem configurationBytesAreBigEndian : Obligations.ConfigurationBytesAreBigEndian :=
  ⟨fun _ => three_bytes_recompose, fun _ => two_bytes_recompose, fun _ => ⟨rfl, rfl, rfl⟩⟩

end Sys2Proof.Machine

namespace Sys2Proof.Machine

open Sys2Proof.Safety

/-! ### The fields of a request word and of a frame's first byte (30 R80, R84, R90) -/

@[simp] theorem reqArg_requestWord (op rsv : BitVec 2) (arg : BitVec 4) : reqArg (requestWord op rsv arg) = arg :=
  BitVec.extractLsb'_append_eq_right

@[simp] theorem reqRsv_requestWord (op rsv : BitVec 2) (arg : BitVec 4) : reqRsv (requestWord op rsv arg) = rsv :=
  (BitVec.extractLsb'_append_eq_of_le (xhi := op ++ rsv) (xlo := arg) (by decide : 4 ≤ 4)).trans
    BitVec.extractLsb'_append_eq_right

@[simp] theorem reqOp_requestWord (op rsv : BitVec 2) (arg : BitVec 4) : reqOp (requestWord op rsv arg) = op :=
  (BitVec.extractLsb'_append_eq_of_le (xhi := op ++ rsv) (xlo := arg) (by decide : 4 ≤ 6)).trans
    BitVec.extractLsb'_append_eq_left

/-- The three fields make up the whole word. -/
theorem requestWord_fields (w : Byte) : requestWord (reqOp w) (reqRsv w) (reqArg w) = w :=
  calc (w.extractLsb' 6 2 ++ w.extractLsb' 4 2) ++ w.extractLsb' 0 4
    _ = w.extractLsb' 4 4 ++ w.extractLsb' 0 4 :=
      congrArg (· ++ w.extractLsb' 0 4) (BitVec.extractLsb'_append_extractLsb'_eq_extractLsb' rfl)
    _ = w.extractLsb' 0 8 := BitVec.extractLsb'_append_extractLsb'_eq_extractLsb' rfl
    _ = w := BitVec.extractLsb'_eq_self

theorem toNat_append_eq_add {m n : Nat} (x : BitVec m) (y : BitVec n) : (x ++ y).toNat = x.toNat * 2 ^ n + y.toNat := by
  rw [BitVec.toNat_append, ← Nat.shiftLeft_add_eq_or_of_lt y.isLt, Nat.shiftLeft_eq]

theorem requestWord_toNat (op rsv : BitVec 2) (arg : BitVec 4) :
    (requestWord op rsv arg).toNat = op.toNat * 64 + rsv.toNat * 16 + arg.toNat := by
  have hword : (requestWord op rsv arg).toNat = (op ++ rsv).toNat * 2 ^ 4 + arg.toNat := toNat_append_eq_add _ _
  rw [hword, toNat_append_eq_add]
  omega

theorem sendWord_toNat (c : BitVec 4) : (sendWord c).toNat = 0x80 + c.toNat := requestWord_toNat 2 0 c

@[simp] theorem frameAddr_frameByte0 (write : Bool) (a : RegAddr) : frameAddr (frameByte0 write a) = a :=
  BitVec.extractLsb'_append_eq_right

theorem frameByte0_toNat (write : Bool) (a : RegAddr) : (frameByte0 write a).toNat = write.toNat * 0x80 + a.toNat := by
  have hbyte : (frameByte0 write a).toNat = (BitVec.ofBool write).toNat * 0x80 + a.toNat := toNat_append_eq_add _ _
  rw [hbyte, BitVec.toNat_ofBool]

@[simp] theorem frameDir_frameByte0 (write : Bool) (a : RegAddr) : frameDir (frameByte0 write a) = write :=
  (BitVec.getLsbD_append (x := BitVec.ofBool write) (y := a)).trans (by simp)

/-- The direction and the address make up the whole byte. -/
theorem frameByte0_fields (b : Byte) : frameByte0 (frameDir b) (frameAddr b) = b := by
  have hdir : BitVec.ofBool (frameDir b) = b.extractLsb' 7 1 := by
    refine BitVec.eq_of_getLsbD_eq fun i hi => ?_
    obtain rfl : i = 0 := by omega
    simp [frameDir]
  calc BitVec.ofBool (frameDir b) ++ b.extractLsb' 0 7
    _ = b.extractLsb' 7 1 ++ b.extractLsb' 0 7 := by rw [hdir]
    _ = b.extractLsb' 0 8 := BitVec.extractLsb'_append_extractLsb'_eq_extractLsb' rfl
    _ = b := BitVec.extractLsb'_eq_self

/-! ### Decoding a request word, class by class (30 R82) -/

theorem decodeRequest_rsv01 (op : BitVec 2) (arg : BitVec 4) :
    decodeRequest (requestWord op 1 arg) = .reservedRsv01 op arg := by simp [decodeRequest]

theorem decodeRequest_rsv10 (op : BitVec 2) (arg : BitVec 4) :
    decodeRequest (requestWord op 2 arg) = .reservedRsv10 op arg := by simp [decodeRequest]

theorem decodeRequest_rsv11 (op : BitVec 2) (arg : BitVec 4) :
    decodeRequest (requestWord op 3 arg) = .reservedRsv11 op arg := by simp [decodeRequest]

theorem decodeRequest_nop : decodeRequest (requestWord 0 0 0) = .nop := by simp [decodeRequest]

theorem decodeRequest_begin : decodeRequest (requestWord 1 0 0) = .begin := by simp [decodeRequest]

theorem decodeRequest_status : decodeRequest (requestWord 3 0 0) = .status := by simp [decodeRequest]

theorem decodeRequest_op00Arg {arg : BitVec 4} (h : arg ≠ 0) :
    decodeRequest (requestWord 0 0 arg) = .reservedOp00Arg arg := by simpa [decodeRequest] using h

theorem decodeRequest_op01Arg {arg : BitVec 4} (h : arg ≠ 0) :
    decodeRequest (requestWord 1 0 arg) = .reservedOp01Arg arg := by simpa [decodeRequest] using h

theorem decodeRequest_op11Arg {arg : BitVec 4} (h : arg ≠ 0) :
    decodeRequest (requestWord 3 0 arg) = .reservedOp11Arg arg := by simpa [decodeRequest] using h

theorem decodeRequest_sendWord (c : BitVec 4) : decodeRequest (sendWord c) = sendOfCode c := by
  simp [decodeRequest, sendWord]

theorem twoBits_cases (b : BitVec 2) : b = 0 ∨ b = 1 ∨ b = 2 ∨ b = 3 := by revert b; decide

/-- Case analysis on a request word along the cases of 30 R82. -/
theorem forall_requestWord {P : Byte → Prop}
    (rsv01 : ∀ op arg, P (requestWord op 1 arg)) (rsv10 : ∀ op arg, P (requestWord op 2 arg))
    (rsv11 : ∀ op arg, P (requestWord op 3 arg))
    (nop : P (requestWord 0 0 0)) (op00Arg : ∀ arg, arg ≠ 0 → P (requestWord 0 0 arg))
    (begin : P (requestWord 1 0 0)) (op01Arg : ∀ arg, arg ≠ 0 → P (requestWord 1 0 arg))
    (status : P (requestWord 3 0 0)) (op11Arg : ∀ arg, arg ≠ 0 → P (requestWord 3 0 arg))
    (send : ∀ c, P (sendWord c)) (w : Byte) : P w := by
  have withArg {op : BitVec 2} (hzero : P (requestWord op 0 0)) (hne : ∀ arg, arg ≠ 0 → P (requestWord op 0 arg))
      (arg : BitVec 4) : P (requestWord op 0 arg) :=
    (eq_or_ne arg 0).elim (fun h => h ▸ hzero) (hne arg)
  rw [← requestWord_fields w]
  rcases twoBits_cases (reqRsv w) with hrsv | hrsv | hrsv | hrsv <;> rw [hrsv]
  · rcases twoBits_cases (reqOp w) with hop | hop | hop | hop <;> rw [hop]
    · exact withArg nop op00Arg _
    · exact withArg begin op01Arg _
    · exact send _
    · exact withArg status op11Arg _
  · exact rsv01 _ _
  · exact rsv10 _ _
  · exact rsv11 _ _

/-- The row of each of the sixteen codes carries its code (30 R85, R86). -/
theorem sendOfCode_row (c : BitVec 4) :
    (sendOfCode c).wf = true ∧ (sendOfCode c).hasEncoding = true ∧ encode (sendOfCode c) = [sendWord c] := by
  revert c; decide

/-- A request word decodes to a well-formed instruction, whose encoding it is. -/
theorem decodeRequest_sound (w : Byte) :
    (decodeRequest w).wf = true ∧ (decodeRequest w).hasEncoding = true ∧ encode (decodeRequest w) = [w] := by
  revert w
  refine forall_requestWord (fun op arg => ?_) (fun op arg => ?_) (fun op arg => ?_) ?_ (fun arg h => ?_) ?_
    (fun arg h => ?_) ?_ (fun arg h => ?_) (fun c => ?_)
  · rw [decodeRequest_rsv01]; exact ⟨rfl, rfl, rfl⟩
  · rw [decodeRequest_rsv10]; exact ⟨rfl, rfl, rfl⟩
  · rw [decodeRequest_rsv11]; exact ⟨rfl, rfl, rfl⟩
  · rw [decodeRequest_nop]; exact ⟨rfl, rfl, rfl⟩
  · rw [decodeRequest_op00Arg h]; exact ⟨bne_iff_ne.mpr h, rfl, rfl⟩
  · rw [decodeRequest_begin]; exact ⟨rfl, rfl, rfl⟩
  · rw [decodeRequest_op01Arg h]; exact ⟨bne_iff_ne.mpr h, rfl, rfl⟩
  · rw [decodeRequest_status]; exact ⟨rfl, rfl, rfl⟩
  · rw [decodeRequest_op11Arg h]; exact ⟨bne_iff_ne.mpr h, rfl, rfl⟩
  · rw [decodeRequest_sendWord]; exact sendOfCode_row c

/-! ### Decoding a bus frame (30 R90, R91, R95, R100) -/

/-- The row of a mode's write to REG_OPMODE. -/
def modeWrite : Mode → Instr
  | .sleep => .modeSleep
  | .standby => .modeStandby
  | .transmit => .modeTransmit

theorem modeWrite_row (m : Mode) : (modeWrite m).wf = true ∧ (modeWrite m).hasEncoding = true ∧
    encode (modeWrite m) = writeFrame Config.hw.regOpmode (modeVal m) := by
  cases m <;> exact ⟨rfl, rfl, rfl⟩

theorem isModeWrite_iff (a : RegAddr) (v : Byte) :
    isModeWrite a v = true ↔ a = Config.hw.regOpmode ∧ ∃ m, v = modeVal m := by
  have hmode : (∃ m, v = modeVal m) ↔ (v = 0x00 ∨ v = 0x04) ∨ v = 0x0C := by
    constructor
    · rintro ⟨m, rfl⟩; cases m <;> decide
    · rintro ((rfl | rfl) | rfl)
      · exact ⟨.sleep, rfl⟩
      · exact ⟨.standby, rfl⟩
      · exact ⟨.transmit, rfl⟩
  simp [isModeWrite, hmode]

theorem decodeFrame_read (a : RegAddr) (v : Byte) : decodeFrame (frameByte0 false a) v = .busRead a := by
  simp [decodeFrame]

theorem decodeFrame_modeWrite (m : Mode) :
    decodeFrame (frameByte0 true Config.hw.regOpmode) (modeVal m) = modeWrite m := by
  cases m <;> decide

theorem decodeFrame_write {a : RegAddr} {v : Byte} (h : isModeWrite a v = false) :
    decodeFrame (frameByte0 true a) v = .busWrite a v := by
  have hmode (m : Mode) : ¬ (a = Config.hw.regOpmode ∧ v = modeVal m) := fun ⟨ha, hv⟩ =>
    Bool.false_ne_true (h.symm.trans ((isModeWrite_iff a v).mpr ⟨ha, m, hv⟩))
  simp only [decodeFrame, frameDir_frameByte0, frameAddr_frameByte0, if_true]
  exact (if_neg (hmode .sleep)).trans ((if_neg (hmode .standby)).trans (if_neg (hmode .transmit)))

/-- Case analysis on a frame: a read, a mode write, or any other write. -/
theorem forall_frame {P : Byte → Byte → Prop} (read : ∀ a v, P (frameByte0 false a) v)
    (mode : ∀ m, P (frameByte0 true Config.hw.regOpmode) (modeVal m))
    (write : ∀ a v, isModeWrite a v = false → P (frameByte0 true a) v) (b0 b1 : Byte) : P b0 b1 := by
  rw [← frameByte0_fields b0]
  cases frameDir b0
  · exact read _ _
  · cases hmode : isModeWrite (frameAddr b0) b1
    · exact write _ _ hmode
    · obtain ⟨ha, m, rfl⟩ := (isModeWrite_iff _ _).mp hmode
      exact ha ▸ mode m

/-- A frame decodes to a well-formed instruction, whose encoding it is but for the filler of a read (log 17). -/
theorem decodeFrame_sound (b0 b1 : Byte) : (decodeFrame b0 b1).wf = true ∧ (decodeFrame b0 b1).hasEncoding = true ∧
    encode (decodeFrame b0 b1) = [b0, if frameDir b0 then b1 else 0x00] := by
  revert b0 b1
  refine forall_frame (fun a v => ?_) (fun m => ?_) (fun a v h => ?_)
  · rw [decodeFrame_read, frameDir_frameByte0]; exact ⟨rfl, rfl, rfl⟩
  · rw [decodeFrame_modeWrite, frameDir_frameByte0]; exact modeWrite_row m
  · rw [decodeFrame_write h, frameDir_frameByte0]; exact ⟨congrArg not h, rfl, rfl⟩

/-! ### Decode and encode agree -/

theorem encode_internal : ∀ i : Instr, i.hasEncoding = false → encode i = []
  | .catalogLookup _, _ | .buildFrame _, _ | .transmitFrame, _ | .pinWrite _ _, _ | .hold _, _ => rfl
  | .enterMode _, _ | .waitModeReady _, _ | .resetPulse, _ | .checkId, _ | .configureRadio, _ => rfl

theorem decode_sendWord (c : BitVec 4) : decode [sendWord c] = .ok (sendOfCode c) :=
  congrArg Except.ok (decodeRequest_sendWord c)

theorem decode_encode_modeWrite (m : Mode) : decode (encode (modeWrite m)) = .ok (modeWrite m) := by
  obtain ⟨-, -, henc⟩ := modeWrite_row m
  rw [henc]
  exact congrArg Except.ok (decodeFrame_modeWrite m)

theorem decode_encode : ∀ i : Instr, i.wf = true → i.hasEncoding = true → decode (encode i) = .ok i
  | .nop, _, _ => congrArg Except.ok decodeRequest_nop
  | .begin, _, _ => congrArg Except.ok decodeRequest_begin
  | .status, _, _ => congrArg Except.ok decodeRequest_status
  | .sendLightToggle, _, _ => decode_sendWord 0
  | .sendFanToggle, _, _ => decode_sendWord 1
  | .sendLightDown, _, _ => decode_sendWord 2
  | .sendLightUp, _, _ => decode_sendWord 3
  | .sendFan1, _, _ => decode_sendWord 4
  | .sendFan2, _, _ => decode_sendWord 5
  | .sendFan3, _, _ => decode_sendWord 6
  | .sendFan4, _, _ => decode_sendWord 7
  | .sendFan5, _, _ => decode_sendWord 8
  | .sendFan6, _, _ => decode_sendWord 9
  | .sendUndefined10, _, _ => decode_sendWord 10
  | .sendUndefined11, _, _ => decode_sendWord 11
  | .sendUndefined12, _, _ => decode_sendWord 12
  | .sendUndefined13, _, _ => decode_sendWord 13
  | .sendUndefined14, _, _ => decode_sendWord 14
  | .sendUndefined15, _, _ => decode_sendWord 15
  | .reservedRsv01 op arg, _, _ => congrArg Except.ok (decodeRequest_rsv01 op arg)
  | .reservedRsv10 op arg, _, _ => congrArg Except.ok (decodeRequest_rsv10 op arg)
  | .reservedRsv11 op arg, _, _ => congrArg Except.ok (decodeRequest_rsv11 op arg)
  | .reservedOp00Arg _, h, _ => congrArg Except.ok (decodeRequest_op00Arg (bne_iff_ne.mp h))
  | .reservedOp01Arg _, h, _ => congrArg Except.ok (decodeRequest_op01Arg (bne_iff_ne.mp h))
  | .reservedOp11Arg _, h, _ => congrArg Except.ok (decodeRequest_op11Arg (bne_iff_ne.mp h))
  | .busRead a, _, _ => congrArg Except.ok (decodeFrame_read a 0x00)
  | .busWrite _ _, h, _ => congrArg Except.ok (decodeFrame_write (Bool.not_eq_true' _ ▸ h))
  | .modeSleep, _, _ => decode_encode_modeWrite .sleep
  | .modeStandby, _, _ => decode_encode_modeWrite .standby
  | .modeTransmit, _, _ => decode_encode_modeWrite .transmit

/-- Settles O1: the decoder's equation for each row, and no bytes for an internal operation. -/
theorem decodeEncodeRoundTrip : Obligations.DecodeEncodeRoundTrip :=
  fun i hwf => ⟨decode_encode i hwf, encode_internal i⟩

theorem decode_tooLong : ∀ bs : List Byte, 2 < bs.length → decode bs = .error (.tooLong bs.length)
  | _ :: _ :: _ :: _, _ => rfl

/-- Settles O2: both decoders are sound, and `decode` is one of them by the number of bytes. -/
theorem encodeDecodeRoundTrip : Obligations.EncodeDecodeRoundTrip :=
  ⟨fun w => ⟨_, rfl, decodeRequest_sound w⟩, fun b0 b1 => ⟨_, rfl, decodeFrame_sound b0 b1⟩, rfl, decode_tooLong⟩

/-! ### Which words are legal (30 R82) -/

/-- A request word decodes to an instruction exactly when it is the instruction's one byte. -/
theorem decodeRequest_eq_iff {i : Instr} (hwf : i.wf = true) (w : Byte) : decodeRequest w = i ↔ encode i = [w] := by
  obtain ⟨-, -, hsound⟩ := decodeRequest_sound w
  refine ⟨fun h => h ▸ hsound, fun h => ?_⟩
  have henc : i.hasEncoding = true := by
    by_contra hinternal
    rw [encode_internal i (Bool.eq_false_iff.mpr hinternal)] at h
    cases h
  have hdecode : decode [w] = .ok i := h ▸ decode_encode i hwf henc
  exact Except.ok.inj hdecode

theorem decodeRequest_eq_nop_iff (w : Byte) : decodeRequest w = .nop ↔ w = 0x00 :=
  (decodeRequest_eq_iff rfl w).trans (List.singleton_inj.trans eq_comm)

/-- The sixteen SEND rows in the order of their codes (30 R85, R86). -/
theorem allSends_eq : allSends = (List.finRange 16).map fun n => (sendOfCode (.ofFin n), .ofFin n) := by decide

theorem mem_allSends_iff (i : Instr) (c : BitVec 4) : (i, c) ∈ allSends ↔ i = sendOfCode c := by
  rw [allSends_eq, List.mem_map]
  constructor
  · rintro ⟨n, -, hn⟩
    obtain ⟨rfl, rfl⟩ := Prod.mk.inj hn
    rfl
  · rintro rfl
    exact ⟨c.toFin, List.mem_finRange _, rfl⟩

theorem mem_acceptedRequests_iff (i : Instr) :
    i ∈ acceptedRequests ↔ i = .begin ∨ i = .status ∨ ∃ c, i = sendOfCode c := by
  simp [acceptedRequests, mem_allSends_iff]

theorem exists_sendWord_iff (w : Byte) : (∃ c, w = sendWord c) ↔ 0x80 ≤ w.toNat ∧ w.toNat ≤ 0x8F := by
  constructor
  · rintro ⟨c, rfl⟩
    rw [sendWord_toNat]
    omega
  · rintro ⟨hlow, hhigh⟩
    refine ⟨BitVec.ofNat 4 w.toNat, BitVec.eq_of_toNat_eq ?_⟩
    rw [sendWord_toNat, BitVec.toNat_ofNat]
    omega

/-- The legal words, by value: BEGIN, STATUS and the sixteen SENDs. -/
theorem decodeRequest_mem_acceptedRequests_iff (w : Byte) :
    decodeRequest w ∈ acceptedRequests ↔ w = 0x40 ∨ w = 0xC0 ∨ (0x80 ≤ w.toNat ∧ w.toNat ≤ 0x8F) := by
  have hbegin : decodeRequest w = .begin ↔ w = 0x40 :=
    (decodeRequest_eq_iff rfl w).trans (List.singleton_inj.trans eq_comm)
  have hstatus : decodeRequest w = .status ↔ w = 0xC0 :=
    (decodeRequest_eq_iff rfl w).trans (List.singleton_inj.trans eq_comm)
  have hsend (c : BitVec 4) : decodeRequest w = sendOfCode c ↔ w = sendWord c := by
    obtain ⟨hwf, -, henc⟩ := sendOfCode_row c
    rw [decodeRequest_eq_iff hwf, henc, List.singleton_inj, eq_comm]
  rw [mem_acceptedRequests_iff, hbegin, hstatus, exists_congr hsend, exists_sendWord_iff]

/-- Case 1 of 30 R82: a word whose reserved field is not 0 is ignored. -/
theorem exec_reserved_rsv (op : BitVec 2) {rsv : BitVec 2} (arg : BitVec 4) (h : rsv ≠ 0) (s : State) :
    exec (decodeRequest (requestWord op rsv arg)) s = .next s := by
  rcases twoBits_cases rsv with rfl | rfl | rfl | rfl
  · exact absurd rfl h
  · rw [decodeRequest_rsv01]; rfl
  · rw [decodeRequest_rsv10]; rfl
  · rw [decodeRequest_rsv11]; rfl

/-- Case 3 of 30 R82: a word that is no SEND and has an argument is ignored. -/
theorem exec_reserved_arg {op : BitVec 2} {arg : BitVec 4} (harg : arg ≠ 0) (hop : op ≠ 2) (s : State) :
    exec (decodeRequest (requestWord op 0 arg)) s = .next s := by
  rcases twoBits_cases op with rfl | rfl | rfl | rfl
  · rw [decodeRequest_op00Arg harg]; rfl
  · rw [decodeRequest_op01Arg harg]; rfl
  · exact absurd rfl hop
  · rw [decodeRequest_op11Arg harg]; rfl

theorem exec_decodeRequest_nop (s : State) : exec (decodeRequest (requestWord 0 0 0)) s = .next s := by
  rw [decodeRequest_nop]; rfl

/-- Of the 256 words 237 are neither legal nor NOP: all but 18 and 1. -/
theorem reservedWords_count : ((List.range 256).filter (fun n => decodeRequest (BitVec.ofNat 8 n) ∉ acceptedRequests ∧
    decodeRequest (BitVec.ofNat 8 n) ≠ .nop)).length = 237 := by
  simp only [decodeRequest_mem_acceptedRequests_iff, ne_eq, decodeRequest_eq_nop_iff]
  decide +kernel

/-- Settles O3: the cases by the decoder's equation for each class, the legal words and NOP by their one encoding. -/
theorem requestWordsDecodeInOrder : Obligations.RequestWordsDecodeInOrder := by
  refine ⟨fun w => ?_, decodeRequest_mem_acceptedRequests_iff, decodeRequest_eq_nop_iff, reservedWords_count⟩
  obtain ⟨op, rsv, arg, rfl⟩ : ∃ op rsv arg, w = requestWord op rsv arg := ⟨_, _, _, (requestWord_fields w).symm⟩
  have hop : (requestWord op rsv arg).extractLsb' 6 2 = op := reqOp_requestWord op rsv arg
  have hrsv : (requestWord op rsv arg).extractLsb' 4 2 = rsv := reqRsv_requestWord op rsv arg
  have harg : (requestWord op rsv arg).extractLsb' 0 4 = arg := reqArg_requestWord op rsv arg
  rw [hop, hrsv, harg]
  refine ⟨exec_reserved_rsv op arg, ?_, ?_, ?_, ?_, ?_⟩
  · rintro rfl rfl rfl; exact ⟨decodeRequest_nop, exec_decodeRequest_nop⟩
  · rintro rfl hne hsend; exact exec_reserved_arg hne hsend
  · rintro rfl rfl rfl; exact decodeRequest_begin
  · rintro rfl rfl rfl; exact decodeRequest_status
  · rintro rfl rfl; exact (mem_allSends_iff _ _).mpr (decodeRequest_sendWord arg)

/-! ### The direction of a frame (30 R90, R91) -/

/-- A write to the default REG_OPMODE has the first byte 0x81 (30 R95). -/
theorem frameAddr_eq_regOpmode_iff {b0 : Byte} (hdir : frameDir b0 = true) :
    frameAddr b0 = Config.hw.regOpmode ↔ b0 = 0x81 := by
  constructor
  · intro h
    rw [← frameByte0_fields b0, hdir, h]
    rfl
  · rintro rfl
    rfl

/-- Settles O4: the decoder's test of bit 7, its three mode writes, and the value of byte 0. -/
theorem frameDirectionIsBitSeven : Obligations.FrameDirectionIsBitSeven := by
  refine ⟨fun b0 b1 hdir => ?_, fun b0 b1 hdir => ?_, fun a => ⟨_, rfl, ?_⟩, fun a v => ⟨_, rfl, ?_⟩⟩
  · have hread : decodeFrame b0 b1 = .busRead (frameAddr b0) := if_neg (Bool.eq_false_iff.mp hdir)
    exact congrArg Except.ok hread
  · have hdir : frameDir b0 = true := hdir
    simp only [decode, decodeFrame, hdir, if_true, frameAddr_eq_regOpmode_iff hdir]
    rfl
  · rw [frameByte0_toNat]
    exact Nat.zero_add _
  · rw [frameByte0_toNat]
    exact Nat.add_comm ..

/-- Settles O5: each written word is the encoding of its instruction, so O1 decodes it. -/
theorem writtenWordsDecode : Obligations.WrittenWordsDecode :=
  ⟨decode_encode .nop rfl rfl, decode_encode .begin rfl rfl, decode_encode .sendFan2 rfl rfl,
    decode_encode .sendUndefined12 rfl rfl, decode_encode .status rfl rfl,
    decode_encode (.reservedRsv10 0b01 0b0011) rfl rfl, decode_encode (.reservedOp11Arg 0b1001) rfl rfl,
    decode_encode (.busRead 0x27) rfl rfl, decode_encode (.busWrite 0x02 0x68) rfl rfl,
    decode_encode .modeTransmit rfl rfl⟩

/-! ### One step on a word or a frame (30 R83, 43 R190; log 4, log 5) -/

theorem step_of_word {s : State} {w : Byte} {rest : List HostIn} (hi : s.issue = none) (hb : s.busy = false)
    (hh : s.hostIn = .word w :: rest) : step s = exec (decodeRequest w) { s with hostIn := rest, done := false } := by
  have hfetch : fetch s = .word w := by simp [fetch, hi, hb, hh]
  have hpass : passInstant s = { s with hostIn := rest, done := false } := by rw [passInstant, hh, List.tail_cons]
  rw [← hpass]
  simp only [step, hfetch]

theorem decodeTableWord_request {nbits : Nat} (w : Nat) (h0 : 0 < nbits) (h8 : nbits ≤ 8) :
    decodeTableWord nbits w = some (decodeRequest (BitVec.ofNat 8 w)) := by
  have hrange : ¬ (nbits = 0 ∨ 16 < nbits) := by omega
  rw [decodeTableWord, if_neg hrange, tableBytes, if_pos h8]
  rfl

/-- The two bytes of a frame's table word are its upper and its lower half. -/
theorem decodeTableWord_frame {nbits : Nat} (w : Nat) (h8 : 8 < nbits) (h16 : nbits ≤ 16) :
    decodeTableWord nbits w = some (frameInstr (BitVec.ofNat 16 w)) := by
  have hrange : ¬ (nbits = 0 ∨ 16 < nbits) := by omega
  have hbyte0 : BitVec.ofNat 8 (w / 256) = (BitVec.ofNat 16 w).extractLsb' 8 8 := by
    apply BitVec.eq_of_toNat_eq
    simp only [BitVec.toNat_ofNat, BitVec.extractLsb'_toNat, Nat.shiftRight_eq_div_pow]
    omega
  have hbyte1 : BitVec.ofNat 8 w = (BitVec.ofNat 16 w).extractLsb' 0 8 := by
    apply BitVec.eq_of_toNat_eq
    simp only [BitVec.toNat_ofNat, BitVec.extractLsb'_toNat, Nat.shiftRight_zero]
    omega
  rw [decodeTableWord, if_neg hrange, tableBytes, if_neg (Nat.not_le.mpr h8), hbyte0, hbyte1]
  rfl

theorem withFetchWord_request (s : State) {nbits : Nat} (w : Nat) (h8 : nbits ≤ 8) :
    s.withFetchWord nbits w = presentWord (BitVec.ofNat 8 w) s := if_pos h8

theorem withFetchWord_frame (s : State) {nbits : Nat} (w : Nat) (h8 : 8 < nbits) :
    s.withFetchWord nbits w = presentFrame (BitVec.ofNat 16 w) s := if_neg (Nat.not_le.mpr h8)

/-- Settles O6: what `step` fetches, and that a table word is placed where it is fetched from. -/
theorem stepRunsTheDecodedInstruction : Obligations.StepRunsTheDecodedInstruction := by
  refine ⟨fun s w rest hi hb hh => ?_, fun s f hi => ?_, fun s nbits w h0 h8 hb => ?_, fun s nbits w h8 h16 => ?_⟩
  · obtain ⟨hwf, -⟩ := decodeRequest_sound w
    exact ⟨_, rfl, hwf, step_of_word hi hb hh⟩
  · obtain ⟨hwf, -⟩ := decodeFrame_sound (f.extractLsb' 8 8) (f.extractLsb' 0 8)
    exact ⟨_, rfl, hwf, step_of_frame hi⟩
  · refine ⟨_, decodeTableWord_request w h0 h8, ?_⟩
    rw [withFetchWord_request s w h8]
    exact step_of_word (s := presentWord (BitVec.ofNat 8 w) s) rfl hb rfl
  · refine ⟨_, decodeTableWord_frame w h8 h16, ?_⟩
    rw [withFetchWord_frame s w h8]
    exact step_of_frame (s := presentFrame (BitVec.ofNat 16 w) s) rfl

/-! ### The mode writes (30 R95, 42 R152, R160) -/

/-- A mode write, whole: one transaction, and the mode recorded. -/
theorem exec_modeWrite (m : Mode) (s : State) : exec (modeWrite m) s = .next { s with
    radioMode := some (modeVal m), pinCs := true, trace := s.trace ++ [.busW 0x01 (modeVal m)] } := by
  have harm : exec (modeWrite m) s = .next (busWrite Config.hw Config.hw.regOpmode (modeVal m) s) := by
    cases m <;> rfl
  rw [harm, busWrite_eq, if_pos rfl]
  rfl

/-- Settles O30: the three modes. -/
theorem modeWritesRecordTheMode : Obligations.ModeWritesRecordTheMode :=
  fun s => ⟨exec_modeWrite .sleep s, exec_modeWrite .standby s, exec_modeWrite .transmit s⟩

/-! ### The frame layout (30 R88) -/

section
variable (cfg : Config) (p : Payload) {i : Nat}

theorem frameOf_preamble (h : i < 33) : (frameOf cfg p)[i] = cfg.preamble[i] :=
  (Vector.getElem_append_left (xs := cfg.preamble ++ cfg.syncPhrase) (ys := p) (by omega)).trans
    (Vector.getElem_append_left h)

theorem frameOf_syncPhrase (h33 : 33 ≤ i) (h : i < 115) : (frameOf cfg p)[i] = cfg.syncPhrase[i - 33] :=
  (Vector.getElem_append_left (xs := cfg.preamble ++ cfg.syncPhrase) (ys := p) h).trans
    (Vector.getElem_append_right h h33)

theorem frameOf_payload (h115 : 115 ≤ i) (h : i < 166) : (frameOf cfg p)[i] = p[i - 115] :=
  Vector.getElem_append_right (xs := cfg.preamble ++ cfg.syncPhrase) (ys := p) h h115

end

/-- Settles O33: the three parts by position; the payload is read off its frame. -/
theorem frameLayout : Obligations.FrameLayout := by
  intro cfg p q
  refine ⟨fun i h => frameOf_preamble cfg p h, fun i h33 h => frameOf_syncPhrase cfg p h33 h,
    fun i h115 h => frameOf_payload cfg p h115 h, fun i h => ?_, fun h => Vector.append_inj_right h,
    fun h => congrArg (frameOf cfg) h⟩
  rcases Nat.lt_or_ge i 33 with h33 | h33
  · rw [frameOf_preamble cfg p h33, frameOf_preamble cfg q h33]
  · rw [frameOf_syncPhrase cfg p h33 h, frameOf_syncPhrase cfg q h33 h]

/-! ### A SEND that sends nothing (43 R193, R198) -/

section
variable {cfg : Config} {s : State}

theorem running_acceptSend (c : BitVec 4) (hquiet : s.hostIn = []) : Running (acceptSend c s) := ⟨rfl, hquiet, rfl⟩

/-- A SEND whose run ends idle within the instants given to an operation. -/
theorem send_of_runs {c : BitVec 4} {b : Nat} {t : State} (hidle : s.busy = false) (h : Runs cfg b (acceptSend c s) t)
    (hb : b ≤ 64) (ht : t.busy = false) : send cfg c s = t := by
  have hbound : b ≤ opInstants cfg := by rw [opInstants]; omega
  rw [send, request_idle cfg _ hidle, finish_of_runs h hbound ht]

/-- The last step of a SEND. -/
theorem runs_stepS9 {t : State} (h : Running t) : Runs cfg 1 (goto .s9 (.item 0) t) (complete false t) :=
  Runs.one (h.goto .s9 (.item 0)) rfl

/-- A SEND on a block that is not READY completes with NOT_READY. -/
theorem send_of_notReady (c : BitVec 4) (hidle : s.busy = false) (hquiet : s.hostIn = []) (hr : s.rstate ≠ .ready) :
    send cfg c s = complete false (setErr .notReady (acceptSend c s)) := by
  have hrun := running_acceptSend c hquiet
  have hs2 : sequence cfg (acceptSend c s) = goto .s9 (.item 0) (setErr .notReady (acceptSend c s)) :=
    if_neg (mt (readyOut_iff (acceptSend c s)).mp hr)
  exact send_of_runs hidle ((Runs.one hrun hs2).trans (runs_stepS9 (hrun.setErr .notReady))) (by decide) rfl

/-- A SEND of a code without a payload on a READY block completes with UNKNOWN_CMD. -/
theorem send_of_noPayload {c : BitVec 4} (hidle : s.busy = false) (hquiet : s.hostIn = []) (hr : s.rstate = .ready)
    (hc : catalogLookup cfg c = none) :
    send cfg c s = complete false (setErr .unknownCmd (lookupInto cfg c (acceptSend c s))) := by
  have hrun := running_acceptSend c hquiet
  have hs2 : sequence cfg (acceptSend c s) = goto .s3 (.item 0) (acceptSend c s) :=
    if_pos ((readyOut_iff (acceptSend c s)).mpr hr)
  have hs3 : sequence cfg (goto .s3 (.item 0) (acceptSend c s)) =
      goto .s9 (.item 0) (setErr .unknownCmd (lookupInto cfg c (acceptSend c s))) :=
    if_pos (Option.isNone_iff_eq_none.mpr hc)
  exact send_of_runs hidle
    (((Runs.one hrun hs2).trans (Runs.one (hrun.goto .s3 (.item 0)) hs3)).trans
      (runs_stepS9 ((hrun.lookupInto cfg c).setErr .unknownCmd))) (by decide) rfl

end

/-- The word of SEND is 0x80 + code (30 R97). -/
theorem sendWord_eq_add (c : BitVec 4) : sendWord c = 0x80 + c.zeroExtend 8 := by revert c; decide

theorem catalogLookup_of_undefined (cfg : Config) {c : BitVec 4} (h : 10 ≤ c.toNat) : catalogLookup cfg c = none :=
  dif_neg (Nat.not_lt.mpr h)

theorem mem_undefinedSends : ∀ p ∈ undefinedSends, p.1 = sendOfCode p.2 ∧ 10 ≤ p.2.toNat := by decide

/-- Settles O17: S2 ends the SEND on a block that is not READY, S3 on one that is. -/
theorem sendOfUndefinedCodeIsANoOp : Obligations.SendOfUndefinedCodeIsANoOp := by
  rintro ⟨i, c⟩ hp
  obtain ⟨hi, hc⟩ : i = sendOfCode c ∧ 10 ≤ c.toNat := mem_undefinedSends _ hp
  have hnone := catalogLookup_of_undefined Config.hw hc
  refine ⟨hnone, fun s hidle hquiet => ?_⟩
  obtain ⟨-, hexec⟩ := exec_sendOfCode c
  simp only [hi, hexec, ← sendWord_eq_add]
  by_cases hr : s.rstate = .ready
  · rw [send_of_noPayload hidle hquiet hr hnone, if_pos hr, if_pos hr]
    simp [complete_eq, setErr, lookupInto, acceptSend, setCmd, accept_eq, hnone, hidle]
  · rw [send_of_notReady c hidle hquiet hr, if_neg hr, if_neg hr]
    simp [complete_eq, setErr, acceptSend, setCmd, accept_eq, hidle]

end Sys2Proof.Machine

namespace Sys2Proof.Machine

/-! ### The catalog and the frame builder as instructions (40 R110 to R121) -/

theorem catalogLookup_of_defined (cfg : Config) {c : BitVec 4} (h : c.toNat < 10) :
    catalogLookup cfg c = some cfg.payloads[c.toNat] := dif_pos h

theorem exec_catalogLookup (c : BitVec 4) (s : State) :
    exec (.catalogLookup c) s = .next { s with lookup := catalogLookup Config.hw c } := rfl

theorem exec_buildFrame (p : Option Payload) (s : State) :
    exec (.buildFrame p) s = .next { s with built := p.map (frameOf Config.hw) } := rfl

theorem frameOf_toList (cfg : Config) (p : Payload) :
    (frameOf cfg p).toList = cfg.preamble.toList ++ cfg.syncPhrase.toList ++ p.toList := by
  simp only [frameOf, Vector.toList_append]

/-- Settles O31: the code is below 10 or from 10 on. -/
theorem catalogLookupAnswersEveryCode : Obligations.CatalogLookupAnswersEveryCode := fun c =>
  ⟨fun h => catalogLookup_of_defined Config.hw (Nat.lt_succ_of_le h), catalogLookup_of_undefined Config.hw,
    exec_catalogLookup c⟩

/-- Settles O32: the frame is `frameOf` of the payload. -/
theorem buildFrameConcatenates : Obligations.BuildFrameConcatenates := fun s =>
  ⟨exec_buildFrame none s, fun p => ⟨frameOf Config.hw p, exec_buildFrame (some p) s, frameOf_toList Config.hw p⟩⟩

end Sys2Proof.Machine

namespace Sys2Proof.Machine

open Sys2Proof.Safety

/-! ### The symbol transmitter as instructions (41 R130, R137, R138) -/

/-- Settles O34: an arm for each pin. -/
theorem pinWriteDrivesOnePin : Obligations.PinWriteDrivesOnePin := fun _ _ => ⟨rfl, rfl, rfl⟩

/-- Settles O35: a hold is its event. -/
theorem holdOnlyRecordsItself : Obligations.HoldOnlyRecordsItself := fun _ _ => rfl

/-- TransmitFrame, whole, of a configuration with at least one repetition. -/
theorem transmitFrame_eq {cfg : Config} {n : Nat} (hreps : cfg.reps = n + 1) (f : Frame) (s : State) :
    transmitFrame cfg f s = { s with
      rep := Fin.ofNat 8 n, idx := 165, pinData := false, trace := s.trace ++ transmitEvents cfg f } := by
  rw [transmitFrame, transmitEvents, hreps, sendRepetitions_eq]
  rfl

theorem exec_transmitFrame (s : State) : exec .transmitFrame s = .next (transmitFrame Config.hw s.fbuf s) := rfl

/-- Settles O36: the law of the repetitions at this hardware's five. -/
theorem transmitFrameSendsEveryRepetition : Obligations.TransmitFrameSendsEveryRepetition := by
  intro s
  refine ⟨?_, rfl⟩
  rw [exec_transmitFrame, transmitFrame_eq hw_reps]
  rfl

/-! ### The waveform of a transmission (41 R133, R140)

A transmission is a list of levels of DATA, each with the time it is held. Its events are a write and a hold for each,
so their counts and times are read off this list. -/

/-- The write of DATA and the hold of one level of the waveform. -/
def levelEvents (w : Bool × Nat) : List Event := [.pin .data w.1, .hold w.2]

/-- The levels of a frame's symbols, in position order. -/
def symbolLevels (cfg : Config) (f : Frame) : List (Bool × Nat) := f.toList.map (·, cfg.symbolUs)

/-- The levels of one repetition: the symbols, then the gap. -/
def repetitionLevels (cfg : Config) (f : Frame) : List (Bool × Nat) := symbolLevels cfg f ++ [(false, cfg.gapUs)]

/-- The levels of `n` repetitions. -/
def repeatedLevels (cfg : Config) (f : Frame) (n : Nat) : List (Bool × Nat) :=
  (List.replicate n (repetitionLevels cfg f)).flatten

theorem repetitionEvents_eq (cfg : Config) (f : Frame) :
    repetitionEvents cfg f = (repetitionLevels cfg f).flatMap levelEvents := by
  rw [repetitionLevels, symbolLevels, List.flatMap_append, List.flatMap_map]
  rfl

/-- The events of a transmission are those of its waveform. -/
theorem transmitEvents_eq (cfg : Config) (f : Frame) :
    transmitEvents cfg f = (repeatedLevels cfg f cfg.reps).flatMap levelEvents := by
  rw [transmitEvents, repeatedLevels, List.flatMap_def, List.map_flatten, List.map_replicate, List.flatten_flatten,
    List.map_replicate, repetitionEvents_eq, List.flatMap_def]

/-! ### Events of a waveform -/

section
variable (ws : List (Bool × Nat))

theorem length_levelEvents : (ws.flatMap levelEvents).length = 2 * ws.length := by
  induction ws with
  | nil => rfl
  | cons w ws ih => simp [levelEvents, ih, Nat.mul_add]

theorem countP_isDataPin_levelEvents : (ws.flatMap levelEvents).countP isDataPin = ws.length := by
  induction ws with
  | nil => rfl
  | cons w ws ih => simp [levelEvents, List.countP_cons, isDataPin, ih]

theorem countP_isHold_levelEvents : (ws.flatMap levelEvents).countP isHold = ws.length := by
  induction ws with
  | nil => rfl
  | cons w ws ih => simp [levelEvents, List.countP_cons, isHold, ih]

/-- The holds of a duration are the levels held that long. -/
theorem count_hold_levelEvents (d : Nat) : (ws.flatMap levelEvents).count (.hold d) = (ws.map Prod.snd).count d := by
  induction ws with
  | nil => rfl
  | cons w ws ih => simp [levelEvents, List.count_cons, ih]

theorem heldUs_levelEvents : heldUs (ws.flatMap levelEvents) = (ws.map Prod.snd).sum := by
  induction ws with
  | nil => rfl
  | cons w ws ih => rw [List.map_cons, List.sum_cons, ← ih]; rfl

/-- Writes and holds alternate, a write first. -/
theorem levelEvents_alternate (i : Nat) (h : i < (ws.flatMap levelEvents).length) :
    if i % 2 = 0 then isDataPin (ws.flatMap levelEvents)[i] else isHold (ws.flatMap levelEvents)[i] := by
  induction ws generalizing i with
  | nil => exact absurd h (Nat.not_lt_zero i)
  | cons w ws ih =>
    match i with
    | 0 => rfl
    | 1 => rfl
    | i + 2 =>
      rw [Nat.add_mod_right]
      exact ih i (Nat.lt_of_add_lt_add_right (n := 2) h)

/-- The write of level `n` stands at position `2 * n`. -/
theorem getElem?_levelEvents_pin (n : Nat) :
    (ws.flatMap levelEvents)[2 * n]? = ws[n]?.map (fun w => .pin .data w.1) := by
  induction ws generalizing n with
  | nil => rfl
  | cons w ws ih =>
    cases n with
    | zero => rfl
    | succ n => exact ih n

/-- The hold of level `n` stands right after its write. -/
theorem getElem?_levelEvents_hold (n : Nat) :
    (ws.flatMap levelEvents)[2 * n + 1]? = ws[n]?.map (fun w => .hold w.2) := by
  induction ws generalizing n with
  | nil => rfl
  | cons w ws ih =>
    cases n with
    | zero => rfl
    | succ n => exact ih n

theorem take_levelEvents (n : Nat) : (ws.flatMap levelEvents).take (2 * n) = (ws.take n).flatMap levelEvents := by
  induction ws generalizing n with
  | nil => simp
  | cons w ws ih =>
    cases n with
    | zero => rfl
    | succ n => exact congrArg (levelEvents w ++ ·) (ih n)

end

/-! ### The levels of a frame's repetitions -/

section
variable (cfg : Config) (f : Frame)

theorem length_symbolLevels : (symbolLevels cfg f).length = 166 := by
  rw [symbolLevels, List.length_map, f.length_toList]

theorem getElem?_symbolLevels {i : Nat} (hi : i < 166) : (symbolLevels cfg f)[i]? = some (f[i], cfg.symbolUs) := by
  rw [symbolLevels, List.getElem?_map, Vector.getElem?_toList, Vector.getElem?_eq_getElem hi, Option.map_some]

/-- The symbols are held equally long, whatever their levels. -/
theorem durations_symbolLevels : (symbolLevels cfg f).map Prod.snd = List.replicate 166 cfg.symbolUs := by
  rw [List.eq_replicate_iff, List.length_map, length_symbolLevels]
  simp [symbolLevels]

theorem durations_repetitionLevels :
    (repetitionLevels cfg f).map Prod.snd = List.replicate 166 cfg.symbolUs ++ [cfg.gapUs] := by
  rw [repetitionLevels, List.map_append, durations_symbolLevels]
  rfl

theorem durations_repeatedLevels (n : Nat) : (repeatedLevels cfg f n).map Prod.snd =
    (List.replicate n (List.replicate 166 cfg.symbolUs ++ [cfg.gapUs])).flatten := by
  rw [repeatedLevels, List.map_flatten, List.map_replicate, durations_repetitionLevels]

theorem length_repeatedLevels (n : Nat) : (repeatedLevels cfg f n).length = n * 167 := by
  rw [repeatedLevels, List.length_flatten, List.map_replicate, List.sum_replicate, repetitionLevels, List.length_append,
    length_symbolLevels]
  rfl

/-- The time of `n` repetitions (41 R140). -/
theorem sum_durations (n : Nat) :
    ((repeatedLevels cfg f n).map Prod.snd).sum = n * (166 * cfg.symbolUs + cfg.gapUs) := by
  rw [durations_repeatedLevels, List.sum_flatten, List.map_replicate, List.sum_replicate, List.sum_append,
    List.sum_replicate, List.sum_singleton, smul_eq_mul, smul_eq_mul]

/-- How many levels of `n` repetitions last `d` (41 R140). -/
theorem count_durations (n d : Nat) : ((repeatedLevels cfg f n).map Prod.snd).count d =
    n * ((if cfg.symbolUs == d then 166 else 0) + if cfg.gapUs == d then 1 else 0) := by
  rw [durations_repeatedLevels, List.count_flatten, List.map_replicate, List.sum_replicate, List.count_append,
    List.count_replicate, List.count_singleton, smul_eq_mul]

/-- Repetition `k` begins after the `k` repetitions before it. -/
theorem repeatedLevels_split {k n : Nat} (hk : k < n) :
    ∃ after, repeatedLevels cfg f n = repeatedLevels cfg f k ++ (symbolLevels cfg f ++ after) := by
  obtain ⟨m, rfl⟩ := Nat.exists_eq_add_of_lt hk
  refine ⟨(false, cfg.gapUs) :: repeatedLevels cfg f m, ?_⟩
  rw [repeatedLevels, Nat.add_assoc, List.replicate_add, List.replicate_succ, List.flatten_append, List.flatten_cons,
    repetitionLevels, List.append_assoc]
  rfl

variable {k n i : Nat}

/-- The level of the symbol at repetition `k` and position `i`. -/
theorem getElem?_repeatedLevels (hk : k < n) (hi : i < 166) :
    (repeatedLevels cfg f n)[k * 167 + i]? = some (f[i], cfg.symbolUs) := by
  obtain ⟨after, hsplit⟩ := repeatedLevels_split cfg f hk
  rw [hsplit, ← length_repeatedLevels cfg f k, List.getElem?_append_right (Nat.le_add_right ..),
    Nat.add_sub_cancel_left, List.getElem?_append_left (by rwa [length_symbolLevels]), getElem?_symbolLevels cfg f hi]

/-- The time before the symbol at repetition `k` and position `i` (41 R133). -/
theorem sum_durations_take (hk : k < n) (hi : i < 166) :
    (((repeatedLevels cfg f n).take (k * 167 + i)).map Prod.snd).sum =
      k * (166 * cfg.symbolUs + cfg.gapUs) + i * cfg.symbolUs := by
  obtain ⟨after, hsplit⟩ := repeatedLevels_split cfg f hk
  rw [hsplit, ← length_repeatedLevels cfg f k, List.take_length_add_append,
    List.take_append_of_le_length (by rw [length_symbolLevels]; exact hi.le), List.map_append, List.sum_append,
    sum_durations, List.map_take, durations_symbolLevels, List.take_replicate, List.sum_replicate, min_eq_left hi.le,
    smul_eq_mul]

end

/-- Settles O37: the counts and the time are those of the levels. -/
theorem transmissionCountsAndDuration : Obligations.TransmissionCountsAndDuration := by
  intro f
  have hlen : (repeatedLevels Config.hw f Config.hw.reps).length = 835 := length_repeatedLevels Config.hw f 5
  rw [transmitEvents_eq]
  refine ⟨?_, ?_, ?_, levelEvents_alternate _, ?_, ?_, ?_⟩
  · rw [length_levelEvents, hlen]
  · rw [countP_isDataPin_levelEvents, hlen]
  · rw [countP_isHold_levelEvents, hlen]
  · rw [count_hold_levelEvents, count_durations]; rfl
  · rw [count_hold_levelEvents, count_durations]; rfl
  · rw [heldUs_levelEvents, sum_durations]; rfl

/-- Settles O38: the symbol at (k, i) is level `k * 167 + i`, after `k` repetitions and `i` symbols. -/
theorem symbolStartTimes : Obligations.SymbolStartTimes := by
  intro f k i hk hi
  have hpos : 334 * k + 2 * i = 2 * (k * 167 + i) := by omega
  have hlevel := getElem?_repeatedLevels Config.hw f (n := Config.hw.reps) hk hi
  have hnext : k * 167 + i + 1 < (repeatedLevels Config.hw f Config.hw.reps).length := by
    rw [length_repeatedLevels, hw_reps]; omega
  rw [hpos, transmitEvents_eq]
  refine ⟨?_, ?_, ?_, ?_⟩
  · rw [getElem?_levelEvents_pin, hlevel]; rfl
  · rw [getElem?_levelEvents_hold, hlevel]; rfl
  · rw [← Nat.mul_add_one 2, getElem?_levelEvents_pin, List.getElem?_eq_getElem hnext]; rfl
  · rw [take_levelEvents, heldUs_levelEvents, sum_durations_take Config.hw f (n := Config.hw.reps) hk hi]; rfl

end Sys2Proof.Machine

namespace Sys2Proof.Machine

open Sys2Proof.Safety

/-! ### Register transactions as instructions (42 R151, R152) -/

theorem nextAnswer_of_given {s : State} {v : Byte} {bs : List Byte} (a : RegAddr) (h : s.busIn = v :: bs) :
    nextAnswer a s = v := by
  simp only [nextAnswer, h]

theorem nextAnswer_of_free {s : State} (a : RegAddr) (h : s.busIn = []) :
    nextAnswer a s = Config.busAnswer s.busDraws a := by
  simp only [nextAnswer, h]

theorem nextReading_of_given {s : State} {t : Time} {ts : List Time} (h : s.timeIn = t :: ts) : nextReading s = t := by
  simp only [nextReading, h]

theorem exec_busRead (a : RegAddr) (s : State) : exec (.busRead a) s = .next (busRead a s) := rfl

theorem exec_busWrite (a : RegAddr) (v : Byte) (s : State) :
    exec (.busWrite a v) s = .next (busWrite Config.hw a v s) := rfl

/-- Settles O28: the law of the transaction, and the answer's two sources. -/
theorem busReadReturnsTheAnswer : Obligations.BusReadReturnsTheAnswer := by
  intro a s
  refine ⟨?_, fun v bs hgiven => ?_, fun hfree => ?_⟩
  · rw [exec_busRead, busRead_eq]
  · exact ⟨nextAnswer_of_given a hgiven, by simp [hgiven], by simp [hgiven]⟩
  · exact ⟨nextAnswer_of_free a hfree, by simp [hfree], by simp [hfree]⟩

/-- Settles O29: the law of the transaction at this hardware's REG_OPMODE. -/
theorem busWriteRecordsTheMode : Obligations.BusWriteRecordsTheMode := by
  intro a v s
  rw [exec_busWrite, busWrite_eq, hw_regOpmode]

/-! ### RESET_PULSE and CHECK_ID (42 R175, R176) -/

/-- ResetPulse, whole. -/
theorem resetPulse_eq (cfg : Config) (s : State) : resetPulse cfg s = { s with
    pinReset := false,
    trace := s.trace ++
      [.pin .reset true, .hold cfg.tRstPulseUs, .pin .reset false, .hold cfg.tRstWaitUs] } := by
  simp [resetPulse, hold, pinWrite, setPin, emit]

/-- CheckId, whole. -/
theorem checkId_eq (cfg : Config) (s : State) : checkId cfg s = { s with
    idSeen := nextAnswer cfg.regVersion s, ok := idMatches (nextAnswer cfg.regVersion s),
    rdata := nextAnswer cfg.regVersion s, pinCs := true,
    busIn := (takeAnswer s).busIn, busDraws := (takeAnswer s).busDraws,
    trace := s.trace ++ [.busR cfg.regVersion (nextAnswer cfg.regVersion s)] } := by
  rw [checkId, busRead_eq, recordId]

theorem exec_resetPulse (s : State) : exec .resetPulse s = .next (resetPulse Config.hw s) := rfl

theorem exec_checkId (s : State) : exec .checkId s = .next (checkId Config.hw s) := rfl

/-- Settles O39: the whole pulse with this hardware's two durations. -/
theorem resetPulseEvents : Obligations.ResetPulseEvents := by
  intro s
  rw [exec_resetPulse, resetPulse_eq, hw_tRstPulseUs, hw_tRstWaitUs]

/-- Settles O40: the identification test is equality with ID_EXPECTED, 0x24. -/
theorem checkIdComparesOneByte : Obligations.CheckIdComparesOneByte := by
  intro s
  rw [exec_checkId, checkId_eq, hw_regVersion]
  rfl

/-! ### A poll that is ready at once (42 R161) -/

/-- WaitModeReady, whole, when the first answer has bit 7 set. -/
theorem waitModeReady_of_ready {cfg : Config} (hT : 0 < cfg.timeoutUs) (m : Mode) {s : State}
    (hready : (nextAnswer cfg.regStatus s).getLsbD 7 = true) : waitModeReady cfg m s = { s with
      pmode := m, t0 := nextReading s, pollK := 0, ok := true, rdata := nextAnswer cfg.regStatus s, pinCs := true,
      busIn := (takeAnswer s).busIn, busDraws := (takeAnswer s).busDraws,
      timeIn := (takeReading s).timeIn, timeDraws := (takeReading s).timeDraws,
      trace := s.trace ++ [.time (nextReading s), .busR cfg.regStatus (nextAnswer cfg.regStatus s)] } := by
  obtain ⟨n, hn⟩ := Nat.exists_eq_succ_of_ne_zero hT.ne'
  have hanswer : nextAnswer cfg.regStatus (pollBegin m s) = nextAnswer cfg.regStatus s :=
    nextAnswer_congr _ (pollBegin_busIn m s) (pollBegin_busDraws m s)
  have hread : modeReady (busRead cfg.regStatus (pollBegin m s)).rdata = true := by
    rw [busRead_eq, hanswer]; exact hready
  rw [waitModeReady, hn, pollLoop_ready hread, busRead_eq, hanswer, pollBegin_eq]
  simp [pollOk]

theorem exec_waitModeReady (m : Mode) (s : State) : exec (.waitModeReady m) s = .next (waitModeReady Config.hw m s) :=
  rfl

/-- Settles O41: the poll that is ready at once, on this hardware. -/
theorem waitModeReadySucceedsAtOnce : Obligations.WaitModeReadySucceedsAtOnce := by
  intro m s hready
  rw [exec_waitModeReady, waitModeReady_of_ready (configWf_bounds configWf_hw).1 m hready, hw_regStatus]

/-! ### ENTER_MODE and CONFIGURE_RADIO (42 R160, R177) -/

/-- ENTER_MODE is the write of the mode's value, recorded, and then the poll. -/
theorem exec_enterMode (m : Mode) (s : State) : exec (.enterMode m) s = exec (.waitModeReady m)
    { s with radioMode := some (modeVal m), pinCs := true, trace := s.trace ++ [.busW 0x01 (modeVal m)] } := by
  have harm : exec (.enterMode m) s =
      exec (.waitModeReady m) (busWrite Config.hw Config.hw.regOpmode (modeVal m) s) := rfl
  rw [harm, busWrite_eq, if_pos rfl, hw_regOpmode]

/-- ENTER_MODE, whole, when the first answer has bit 7 set. -/
theorem exec_enterMode_of_ready (m : Mode) {s : State} (hready : (nextAnswer 0x27 s).getLsbD 7 = true) :
    exec (.enterMode m) s = .next { s with
      radioMode := some (modeVal m), pmode := m, t0 := nextReading s, pollK := 0, ok := true,
      rdata := nextAnswer 0x27 s, pinCs := true, busIn := (takeAnswer s).busIn, busDraws := (takeAnswer s).busDraws,
      timeIn := (takeReading s).timeIn, timeDraws := (takeReading s).timeDraws,
      trace := s.trace ++
        [.busW 0x01 (modeVal m), .time (nextReading s), .busR 0x27 (nextAnswer 0x27 s)] } := by
  rw [exec_enterMode, waitModeReadySucceedsAtOnce m]
  · simp [nextAnswer, nextReading]
  · exact hready

/-- Settles O47: the three modes. -/
theorem enterModeWritesThenPolls : Obligations.EnterModeWritesThenPolls := by
  have hmode : ∀ q ∈ [(Mode.sleep, (0x00 : Byte)), (Mode.standby, 0x04), (Mode.transmit, 0x0C)],
      q.2 = modeVal q.1 := by decide
  intro q hq s
  rw [hmode q hq]
  exact ⟨exec_enterMode q.1 s, exec_enterMode_of_ready q.1⟩

/-- Register writes none of which goes to REG_OPMODE, whole: their events in order, and CS high after the last. -/
theorem busWrites_eq {cfg : Config} {ws : List (RegAddr × Byte)} (hws : ∀ w ∈ ws, w.1 ≠ cfg.regOpmode) (s : State) :
    busWrites cfg ws s = { s with
      pinCs := if ws = [] then s.pinCs else true, trace := s.trace ++ ws.map (fun w => .busW w.1 w.2) } := by
  induction ws generalizing s with
  | nil => simp [busWrites]
  | cons w ws ih =>
    obtain ⟨hw, hws⟩ := List.forall_mem_cons.mp hws
    have hcons : busWrites cfg (w :: ws) s = busWrites cfg ws (busWrite cfg w.1 w.2 s) := rfl
    rw [hcons, ih hws, busWrite_eq, if_neg hw]
    simp

/-- CONFIGURE_RADIO is the nine writes of this hardware's table, and then Sleep. -/
theorem exec_configureRadio (s : State) : exec .configureRadio s = exec (.enterMode .sleep) { s with
    pinCs := true,
    trace := s.trace ++ [.busW 0x02 0x68, .busW 0x07 0x6C, .busW 0x08 0x7A, .busW 0x09 0xE1, .busW 0x03 0x25,
      .busW 0x04 0x80, .busW 0x11 0x5F, .busW 0x13 0x1A, .busW 0x26 0x07] } := by
  have harm : exec .configureRadio s =
      exec (.enterMode .sleep) (busWrites Config.hw (configWrites Config.hw) s) := rfl
  have hown : ∀ w ∈ configWrites Config.hw, w.1 ≠ Config.hw.regOpmode := fun w hw => ownOpmode_ne ownOpmode_hw hw
  rw [harm, busWrites_eq hown, configWrites_hw]
  rfl

/-- Settles O48: the writes of the table, then the mode entry, also when it is ready at once. -/
theorem configureRadioWritesTheTable : Obligations.ConfigureRadioWritesTheTable := by
  refine fun s => ⟨exec_configureRadio s, fun hready => ?_⟩
  rw [exec_configureRadio, exec_enterMode_of_ready .sleep]
  · simp [nextAnswer, nextReading, modeVal]
  · exact hready

/-! ### The configuration words (42 R170, R171) -/

/-- Settles O49: the words and bytes of this hardware by computation, the two formulas by definition. -/
theorem configurationWords : Obligations.ConfigurationWords :=
  ⟨by decide, by decide, by decide, by decide, fun _ => ⟨rfl, rfl⟩⟩

end Sys2Proof.Machine

namespace Sys2Proof.Machine

open Sys2Proof.Safety

/-! ### The rounds of a poll against given answers and readings (42 R161) -/

section
variable {cfg : Config} {m : Mode} {s : State} {v : Byte} {t : Time} {bs : List Byte} {ts : List Time}

theorem busRead_rdata_of_given (a : RegAddr) (hbus : s.busIn = v :: bs) : (busRead a s).rdata = v := by
  rw [busRead_eq]; exact nextAnswer_of_given a hbus

theorem modeReady_of_given (a : RegAddr) (hbus : s.busIn = v :: bs) :
    modeReady (busRead a s).rdata = true ↔ v.getLsbD 7 = true := by
  rw [busRead_rdata_of_given a hbus, modeReady]

/-- A given reading that keeps the time-base law is the reading of the time test (60 R236). -/
theorem testReading_of_given (htime : s.timeIn = t :: ts)
    (hlaw : (s.pollK + 1) * cfg.tPollMinUs ≤ (t - s.t0).toNat) :
    testReading cfg (busRead cfg.regStatus s) = t := by
  have hnext : nextReading (busRead cfg.regStatus s) = t := by
    rw [busRead_eq]; exact nextReading_of_given htime
  have hfloor : pollFloor cfg (s.pollK + 1) ≤ elapsedUs s.t0 t := (Nat.min_le_left _ _).trans hlaw
  rw [testReading, hnext, busRead_eq]
  exact lawfulReading_of_le hfloor

theorem timedOut_of_given (htime : s.timeIn = t :: ts)
    (hlaw : (s.pollK + 1) * cfg.tPollMinUs ≤ (t - s.t0).toNat) :
    timedOut cfg s.t0 (testReading cfg (busRead cfg.regStatus s)) = true ↔ cfg.timeoutUs ≤ (t - s.t0).toNat := by
  rw [testReading_of_given htime hlaw, timedOut, decide_eq_true_eq, elapsedUs]

/-- A round of a poll, whole, against a given answer and a given reading that keeps the law. -/
theorem pollRound_of_given (hbus : s.busIn = v :: bs) (htime : s.timeIn = t :: ts)
    (hlaw : (s.pollK + 1) * cfg.tPollMinUs ≤ (t - s.t0).toNat) :
    pollNow cfg (busRead cfg.regStatus s) = { s with
      rdata := v, pinCs := true, pollK := s.pollK + 1, busIn := bs, timeIn := ts,
      trace := s.trace ++ pollEvents cfg [(v, t)] } := by
  rw [pollNow_eq, testReading_of_given htime hlaw, busRead_eq, nextAnswer_of_given _ hbus]
  simp [hbus, htime, pollEvents]

/-- A round that is not ready and not timed out goes on to the next. -/
theorem pollLoop_round (n : Nat) (hbus : s.busIn = v :: bs) (htime : s.timeIn = t :: ts)
    (hv : v.getLsbD 7 = false) (ht : (t - s.t0).toNat < cfg.timeoutUs)
    (hlaw : (s.pollK + 1) * cfg.tPollMinUs ≤ (t - s.t0).toNat) :
    pollLoop cfg m (n + 1) s = pollLoop cfg m n { s with
      rdata := v, pinCs := true, pollK := s.pollK + 1, busIn := bs, timeIn := ts,
      trace := s.trace ++ pollEvents cfg [(v, t)] } := by
  have hread := mt (modeReady_of_given cfg.regStatus hbus).mp (Bool.eq_false_iff.mp hv)
  have htest := mt (timedOut_of_given htime hlaw).mp (Nat.not_le.mpr ht)
  rw [pollLoop_again hread htest, pollRound_of_given hbus htime hlaw]

/-- The last round of a poll that succeeds, whole. -/
theorem pollLoop_success (n : Nat) (hbus : s.busIn = v :: bs) (hv : v.getLsbD 7 = true) :
    pollLoop cfg m (n + 1) s = { s with
      ok := true, rdata := v, pinCs := true, busIn := bs, trace := s.trace ++ [.busR cfg.regStatus v] } := by
  rw [pollLoop_ready ((modeReady_of_given cfg.regStatus hbus).mpr hv), busRead_eq, nextAnswer_of_given _ hbus]
  simp [pollOk, hbus]

/-- The last round of a poll that times out, whole. -/
theorem pollLoop_failure (n : Nat) (hbus : s.busIn = v :: bs) (htime : s.timeIn = t :: ts)
    (hv : v.getLsbD 7 = false) (ht : cfg.timeoutUs ≤ (t - s.t0).toNat)
    (hlaw : (s.pollK + 1) * cfg.tPollMinUs ≤ (t - s.t0).toNat) :
    pollLoop cfg m (n + 1) s = { s with
      ok := false, rstate := .faulted, err := timeoutCode m, rdata := v, pinCs := true, pollK := s.pollK + 1,
      busIn := bs, timeIn := ts, trace := s.trace ++ pollEvents cfg [(v, t)] } := by
  have hread := mt (modeReady_of_given cfg.regStatus hbus).mp (Bool.eq_false_iff.mp hv)
  have htest := (timedOut_of_given htime hlaw).mpr ht
  rw [pollLoop_timedOut hread htest, pollRound_of_given hbus htime hlaw, pollFail]

end

/-- Rounds number `k + 1` and on of a poll that began at `t0`: none is ready, all are before the timeout, and all keep the
time-base law. -/
structure Undecided (cfg : Config) (t0 : Time) (k : Nat) (ps : List (Byte × Time)) : Prop where
  notReady : ∀ p ∈ ps, p.1.getLsbD 7 = false
  inTime : ∀ p ∈ ps, (p.2 - t0).toNat < cfg.timeoutUs
  lawful : ∀ (i : Nat) (h : i < ps.length), (k + i + 1) * cfg.tPollMinUs ≤ (ps[i].2 - t0).toNat

section
variable {cfg : Config} {t0 : Time} {k : Nat} {ps : List (Byte × Time)}

theorem Undecided.tail {p : Byte × Time} (h : Undecided cfg t0 k (p :: ps)) : Undecided cfg t0 (k + 1) ps where
  notReady := fun q hq => h.notReady q (List.mem_cons_of_mem p hq)
  inTime := fun q hq => h.inTime q (List.mem_cons_of_mem p hq)
  lawful := fun i hi => by
    have hlaw := h.lawful (i + 1) (Nat.succ_lt_succ hi)
    rw [Nat.add_right_comm k 1 i]
    exact hlaw

/-- Each round takes at least T_POLL_MIN_US, and all of them together less than TIMEOUT_US (42 R168). -/
theorem Undecided.length_mul_lt (hT : 0 < cfg.timeoutUs) (h : Undecided cfg t0 0 ps) :
    ps.length * cfg.tPollMinUs < cfg.timeoutUs := by
  rcases Nat.eq_zero_or_pos ps.length with h0 | hpos
  · rwa [h0, Nat.zero_mul]
  · have hlaw := h.lawful (ps.length - 1) (by omega)
    rw [Nat.zero_add, Nat.sub_add_cancel hpos] at hlaw
    exact hlaw.trans_lt (h.inTime _ (List.getElem_mem _))

theorem Undecided.length_lt (hT : 0 < cfg.timeoutUs) (h : Undecided cfg t0 0 ps) : ps.length < cfg.timeoutUs :=
  (Nat.le_mul_of_pos_right _ (tPollMinUs_pos cfg)).trans_lt (h.length_mul_lt hT)

end

/-- The rounds of a poll that decide nothing: the loop goes on after them. What it has read last and the level of CS are left
open here, since the next read overwrites both. -/
theorem pollLoop_rounds (cfg : Config) (m : Mode) (n : Nat) (bs : List Byte) (ts : List Time) (ps : List (Byte × Time)) :
    ∀ s : State, s.busIn = ps.map Prod.fst ++ bs → s.timeIn = ps.map Prod.snd ++ ts →
      Undecided cfg s.t0 s.pollK ps → ∃ v cs, pollLoop cfg m (ps.length + n) s = pollLoop cfg m n { s with
        rdata := v, pinCs := cs, pollK := s.pollK + ps.length, busIn := bs, timeIn := ts,
        trace := s.trace ++ pollEvents cfg ps } := by
  induction ps with
  | nil =>
    intro s hbus htime _
    refine ⟨s.rdata, s.pinCs, ?_⟩
    rw [List.map_nil, List.nil_append] at hbus htime
    simp [← hbus, ← htime, pollEvents]
  | cons p ps ih =>
    intro s hbus htime h
    have hround := pollLoop_round (m := m) (ps.length + n) hbus htime (h.notReady p List.mem_cons_self)
      (h.inTime p List.mem_cons_self) (h.lawful 0 (Nat.succ_pos _))
    obtain ⟨v, cs, hrest⟩ := ih { s with
      rdata := p.1, pinCs := true, pollK := s.pollK + 1, busIn := ps.map Prod.fst ++ bs,
      timeIn := ps.map Prod.snd ++ ts, trace := s.trace ++ pollEvents cfg [(p.1, p.2)] } rfl rfl h.tail
    refine ⟨v, cs, ?_⟩
    rw [List.length_cons, Nat.add_right_comm, hround]
    refine hrest.trans ?_
    simp [pollEvents, Nat.add_assoc, Nat.add_comm 1]

/-- A poll after its reading of `t0` and the rounds that decide nothing, with an iteration left. -/
theorem waitModeReady_rounds {cfg : Config} (hT : 0 < cfg.timeoutUs) (m : Mode) {s : State} {ps : List (Byte × Time)}
    {t0 : Time} {bs : List Byte} {ts : List Time} (hbus : s.busIn = ps.map Prod.fst ++ bs)
    (htime : s.timeIn = t0 :: (ps.map Prod.snd ++ ts)) (h : Undecided cfg t0 0 ps) :
    ∃ n v cs, waitModeReady cfg m s = pollLoop cfg m (n + 1) { s with
      pmode := m, t0 := t0, pollK := ps.length, rdata := v, pinCs := cs, busIn := bs, timeIn := ts,
      trace := s.trace ++ .time t0 :: pollEvents cfg ps } := by
  obtain ⟨n, hn⟩ := Nat.exists_eq_add_of_lt (h.length_lt hT)
  have hbegin : pollBegin m s = { s with
      pmode := m, t0 := t0, pollK := 0, timeIn := ps.map Prod.snd ++ ts, trace := s.trace ++ [.time t0] } := by
    rw [pollBegin_eq, nextReading_of_given htime]
    simp [htime]
  obtain ⟨v, cs, hloop⟩ := pollLoop_rounds cfg m (n + 1) bs ts ps { s with
    pmode := m, t0 := t0, pollK := 0, timeIn := ps.map Prod.snd ++ ts, trace := s.trace ++ [.time t0] } hbus rfl h
  refine ⟨n, v, cs, ?_⟩
  rw [waitModeReady, hbegin, hn, Nat.add_assoc, hloop]
  simp

/-- Settles O43: the rounds that decide nothing, then one whose answer is ready. -/
theorem pollSucceedsAfterReads : Obligations.PollSucceedsAfterReads := by
  intro cfg hc m s ps v t0 bs ts hbus htime hps hv hin hlaw
  have h : Undecided cfg t0 0 ps := ⟨hps, hin, by simpa using hlaw⟩
  obtain ⟨n, v', cs, hpoll⟩ := waitModeReady_rounds (configWf_bounds hc).1 m hbus htime h
  rw [hpoll, pollLoop_success n rfl hv]

/-- Settles O44: the rounds that decide nothing, then one that times out. -/
theorem pollTimesOutAfterReads : Obligations.PollTimesOutAfterReads := by
  intro cfg hc m s ps v t t0 bs ts hbus htime hps hv hin ht hlaw hlast
  have h : Undecided cfg t0 0 ps := ⟨hps, hin, by simpa using hlaw⟩
  obtain ⟨n, v', cs, hpoll⟩ := waitModeReady_rounds (configWf_bounds hc).1 m hbus htime h
  rw [hpoll, pollLoop_failure n rfl rfl hv ht hlast]
  cases m <;> simp [pollEvents, timeoutCode]

/-! ### Everything a poll can do (42 R161, R166, R168) -/

/-- Settles O42: the two ways a poll ends. -/
theorem waitModeReadyHasTwoOutcomes : Obligations.WaitModeReadyHasTwoOutcomes := by
  intro m s
  obtain ⟨ps, -, -, ⟨v, hv, hend⟩ | ⟨v, r, hv, -, hend⟩⟩ := waitModeReady_ends configWf_hw m s
  · refine ⟨_, pollEvents Config.hw ps ++ [.busR Config.hw.regStatus v], exec_waitModeReady m s, .inl ?_, ?_⟩
    · rw [hend]; exact ⟨rfl, pollBegin_rstate m s, pollBegin_err m s, hv⟩
    · rw [hend]; simp [pollBegin_eq]
  · refine ⟨_, pollEvents Config.hw (ps ++ [(v, r)]), exec_waitModeReady m s, .inr ?_, ?_⟩
    · rw [hend]; exact ⟨rfl, rfl, hv, by cases m <;> rfl⟩
    · rw [hend]; simp [pollBegin_eq]

/-- Settles O45: a poll that fails has ended the second way. -/
theorem pollNeverFailsEarly : Obligations.PollNeverFailsEarly := by
  intro cfg hc m s hfail
  obtain ⟨ps, hps, -, ⟨v, -, hend⟩ | ⟨v, r, hv, hr, hend⟩⟩ := waitModeReady_ends hc m s
  · rw [hend] at hfail
    exact Bool.noConfusion hfail
  · rw [pollBegin_t0] at hps hr
    refine ⟨ps, v, r, ?_, hps, hv, hr⟩
    rw [hend]
    simp

theorem countP_isStatusRead_pollEvents (cfg : Config) (ps : List (Byte × Time)) :
    (pollEvents cfg ps).countP (isStatusRead cfg) = ps.length := by
  induction ps with
  | nil => rfl
  | cons p ps ih => simp [pollEvents_cons, isStatusRead, ih]

/-- The rounds of `PollEnds` that decide nothing keep the law itself, its cap being beyond the timeout (log 8). -/
theorem undecided_of_floor {cfg : Config} (hT : cfg.timeoutUs < 2 ^ 32) {t0 : Time} {ps : List (Byte × Time)}
    (hps : ∀ p ∈ ps, p.1.getLsbD 7 = false ∧ (p.2 - t0).toNat < cfg.timeoutUs)
    (hfloor : ∀ (i : Nat) (h : i < ps.length), pollFloor cfg (i + 1) ≤ (ps[i].2 - t0).toNat) :
    Undecided cfg t0 0 ps where
  notReady := fun p hp => (hps p hp).1
  inTime := fun p hp => (hps p hp).2
  lawful := fun i hi => by
    have hlt := (hps ps[i] (List.getElem_mem hi)).2
    have hcap := hfloor i hi
    rw [pollFloor] at hcap
    rw [Nat.zero_add]
    omega

/-- A poll's status reads are those of its rounds that decide nothing and one more. -/
theorem waitModeReady_reads {cfg : Config} (hc : configWf cfg = true) (m : Mode) (s : State) :
    ∃ ps es, Undecided cfg (nextReading s) 0 ps ∧ (waitModeReady cfg m s).trace = s.trace ++ es ∧
      es.countP (isStatusRead cfg) = ps.length + 1 := by
  obtain ⟨ps, hps, hfloor, hend⟩ := waitModeReady_ends hc m s
  rw [pollBegin_t0] at hps
  simp only [pollBegin_t0, pollBegin_pollK, Nat.zero_add] at hfloor
  have h := undecided_of_floor (configWf_bounds hc).2.1 hps hfloor
  rcases hend with ⟨v, -, hend⟩ | ⟨v, r, -, -, hend⟩
  · refine ⟨ps, .time (nextReading s) :: pollEvents cfg ps ++ [.busR cfg.regStatus v], h, ?_, ?_⟩
    · rw [hend]; simp
    · simp [countP_isStatusRead_pollEvents, isStatusRead]
  · refine ⟨ps, .time (nextReading s) :: pollEvents cfg (ps ++ [(v, r)]), h, ?_, ?_⟩
    · rw [hend]; simp
    · simp [countP_isStatusRead_pollEvents, isStatusRead]

/-- Settles O46: the rounds that decide nothing take less than TIMEOUT_US together, each at least T_POLL_MIN_US. -/
theorem pollReadBound : Obligations.PollReadBound := by
  intro cfg hc m s
  obtain ⟨ps, es, h, htrace, hcount⟩ := waitModeReady_reads hc m s
  refine ⟨es, htrace, ?_⟩
  have hlt := h.length_mul_lt (configWf_bounds hc).1
  rw [hcount, Nat.add_le_add_iff_right, Nat.le_div_iff_mul_le (tPollMinUs_pos cfg)]
  omega

end Sys2Proof.Machine

namespace Sys2Proof.Machine

open Sys2Proof.Safety

/-! ### The register writes of a SEND (42 R179) -/

theorem writesOf_append (es es' : List Event) : writesOf (es ++ es') = writesOf es ++ writesOf es' := by
  induction es with
  | nil => rfl
  | cons e es ih => cases e <;> simp [writesOf, ih]

/-- The trace of `s` is `tr` and then events whose register writes are all of Transmit or of Sleep. -/
def OnlyModeWrites (cfg : Config) (tr : List Event) (s : State) : Prop :=
  ∃ es, s.trace = tr ++ es ∧
    ∀ w ∈ writesOf es, w = (cfg.regOpmode, modeVal .transmit) ∨ w = (cfg.regOpmode, modeVal .sleep)

/-- A SEND in progress, or ended, that began with the trace `tr`. -/
structure SendSoFar (cfg : Config) (tr : List Event) (s : State) : Prop where
  pc : ∀ st, s.step = some st → opOf st = .send
  writes : OnlyModeWrites cfg tr s

section
variable {cfg : Config} {tr : List Event} {s t : State}

theorem OnlyModeWrites.silent (h : OnlyModeWrites cfg tr s) (ht : t.trace = s.trace) : OnlyModeWrites cfg tr t := by
  rwa [OnlyModeWrites, ht]

theorem OnlyModeWrites.event (h : OnlyModeWrites cfg tr s) {e : Event} (ht : t.trace = s.trace ++ [e])
    (he : ∀ w ∈ writesOf [e], w = (cfg.regOpmode, modeVal .transmit) ∨ w = (cfg.regOpmode, modeVal .sleep)) :
    OnlyModeWrites cfg tr t := by
  obtain ⟨es, hs, hes⟩ := h
  refine ⟨es ++ [e], by rw [ht, hs, List.append_assoc], fun w hw => ?_⟩
  rw [writesOf_append, List.mem_append] at hw
  exact hw.elim (hes w) (he w)

/-- An event that is no register write. -/
theorem OnlyModeWrites.other (h : OnlyModeWrites cfg tr s) {e : Event} (ht : t.trace = s.trace ++ [e])
    (he : writesOf [e] = []) : OnlyModeWrites cfg tr t :=
  h.event ht (by simp [he])

theorem OnlyModeWrites.modeWrite (h : OnlyModeWrites cfg tr s) {m : Mode} (hm : m = .transmit ∨ m = .sleep) :
    OnlyModeWrites cfg tr (writeTransfer cfg cfg.regOpmode (modeVal m) s) := by
  refine h.event (writeTransfer_trace cfg _ _ s) fun w hw => ?_
  rw [List.mem_singleton.mp hw]
  exact hm.imp (fun e => by rw [e]) (fun e => by rw [e])

theorem OnlyModeWrites.goto (h : OnlyModeWrites cfg tr s) {st : Step} (hst : opOf st = .send) (u : Sub) :
    SendSoFar cfg tr (goto st u s) :=
  ⟨fun _ hs => Option.some.inj hs ▸ hst, h⟩

namespace SendSoFar

theorem busInstant (h : SendSoFar cfg tr s) {transfer : State → State} (ht : SendSoFar cfg tr (transfer s)) :
    SendSoFar cfg tr (busInstant transfer s) := by
  unfold Machine.busInstant
  split
  · exact ⟨h.pc, h.writes⟩
  · exact ht

/-- A step of SEND that enters Transmit or Sleep writes that mode alone. -/
theorem enterModeInstant (h : SendSoFar cfg tr s) {here : Step} (hs : s.step = some here) {m : Mode}
    (hm : m = .transmit ∨ m = .sleep) {yes no : State → State}
    (hyes : ∀ s, OnlyModeWrites cfg tr s → SendSoFar cfg tr (yes s))
    (hno : ∀ s, OnlyModeWrites cfg tr s → SendSoFar cfg tr (no s)) :
    SendSoFar cfg tr (enterModeInstant cfg m here yes no s) := by
  have hhere := h.pc here hs
  unfold Machine.enterModeInstant
  split
  · exact (h.writes.other (pollBegin_trace m s) rfl).goto hhere _
  · refine h.busInstant ?_
    have hread := h.writes.other (readTransfer_trace cfg.regStatus s) rfl
    dsimp only
    split
    · exact hyes _ (hread.silent (pollOk_trace _))
    · exact hread.goto hhere _
  · have htest := h.writes.other (pollNow_trace cfg s) rfl
    split
    · exact hno _ (htest.silent (pollFail_trace _ _))
    · exact htest.goto hhere _
  · exact h.busInstant ((h.writes.modeWrite hm).goto hhere _)

theorem stepS2 (h : SendSoFar cfg tr s) : SendSoFar cfg tr (stepS2 s) := by
  unfold Machine.stepS2
  split
  · exact h.writes.goto rfl _
  · exact (h.writes.silent (setErr_trace _ _)).goto rfl _

theorem stepS3 (h : SendSoFar cfg tr s) : SendSoFar cfg tr (stepS3 cfg s) := by
  have hlookup : OnlyModeWrites cfg tr (lookupInto cfg s.cmd s) := h.writes
  unfold Machine.stepS3
  dsimp only
  split
  · exact (hlookup.silent (setErr_trace _ _)).goto rfl _
  · exact hlookup.goto rfl _

theorem stepS4 (h : SendSoFar cfg tr s) : SendSoFar cfg tr (stepS4 cfg s) := by
  have hbuilt : OnlyModeWrites cfg tr (buildInto cfg s.lookup s) := h.writes
  unfold Machine.stepS4
  dsimp only
  split
  · exact (hbuilt.silent (setFbuf_trace _ _)).goto rfl _
  · exact hbuilt.goto rfl _

theorem stepS5 (h : SendSoFar cfg tr s) (hs : s.step = some .s5) : SendSoFar cfg tr (stepS5 cfg s) :=
  h.enterModeInstant hs (.inl rfl) (fun _ hw => (hw.silent (by rw [setIdx_trace, setRep_trace])).goto rfl _)
    (fun _ hw => hw.goto rfl _)

theorem nextSymbol (h : OnlyModeWrites cfg tr s) : SendSoFar cfg tr (nextSymbol s) := by
  by_cases hl : s.idx.val + 1 < 166
  · rw [nextSymbol_of_lt rfl hl]
    exact (h.silent (setIdx_trace _ _)).goto rfl _
  · rw [nextSymbol_of_last rfl hl]
    exact h.goto rfl _

theorem nextRepetition (h : OnlyModeWrites cfg tr s) : SendSoFar cfg tr (nextRepetition cfg s) := by
  unfold Machine.nextRepetition
  split
  · exact (h.silent (by rw [setIdx_trace, setRep_trace])).goto rfl _
  · exact h.goto rfl _

theorem stepS6 (h : SendSoFar cfg tr s) : SendSoFar cfg tr (stepS6 cfg s) := by
  unfold Machine.stepS6
  split
  · exact nextSymbol (h.writes.other (hold_trace cfg.symbolUs s) rfl)
  · exact (h.writes.other (pinWriteData_trace false s) rfl).goto rfl _
  · exact nextRepetition (h.writes.other (hold_trace cfg.gapUs s) rfl)
  · exact (h.writes.other (pinWriteData_trace _ s) rfl).goto rfl _

theorem stepS7 (h : SendSoFar cfg tr s) (hs : s.step = some .s7) : SendSoFar cfg tr (stepS7 cfg s) :=
  h.enterModeInstant hs (.inr rfl) (fun _ hw => hw.goto rfl _) (fun _ hw => hw.goto rfl _)

theorem stepS8 (h : SendSoFar cfg tr s) : SendSoFar cfg tr (stepS8 s) := by
  unfold Machine.stepS8
  split
  · exact (h.writes.silent (setErr_trace _ _)).goto rfl _
  · exact h.writes.goto rfl _

theorem stepS9 (h : SendSoFar cfg tr s) : SendSoFar cfg tr (stepS9 s) :=
  ⟨nofun, h.writes.other (complete_trace false s) rfl⟩

/-- Every action of the sequencer in a SEND, by its pc. -/
theorem sequence (h : SendSoFar cfg tr s) : SendSoFar cfg tr (sequence cfg s) := by
  unfold Machine.sequence
  rcases hs : s.step with _ | st
  · exact h
  cases st
  case s1 => exact h.writes.goto rfl _
  case s2 => exact h.stepS2
  case s3 => exact h.stepS3
  case s4 => exact h.stepS4
  case s5 => exact h.stepS5 hs
  case s6 => exact h.stepS6
  case s7 => exact h.stepS7 hs
  case s8 => exact h.stepS8
  case s9 => exact h.stepS9
  all_goals exact absurd (h.pc _ hs) (by decide)

/-- An instant is the reset input, which writes no register, or one action of the sequencer. -/
theorem tick (h : SendSoFar cfg tr s) : SendSoFar cfg tr (tick cfg s) := by
  have hpass : SendSoFar cfg tr (passInstant s) := ⟨h.pc, h.writes⟩
  rcases tick_cases cfg s with ⟨_, _, htick⟩ | ⟨_, htick⟩
  · rw [htick]
    exact ⟨nofun, hpass.writes.other (applyReset_trace _) rfl⟩
  · rw [htick]
    exact hpass.sequence

theorem runOp (n : Nat) {s : State} (h : SendSoFar cfg tr s) : SendSoFar cfg tr (runOp cfg n s) := by
  induction n generalizing s with
  | zero => exact h
  | succ n ih =>
    rw [runOp_succ]
    split
    · exact ih h.tick
    · exact h

/-- The acceptance of SEND, which writes no register. -/
theorem acceptSend (cfg : Config) (c : BitVec 4) (s : State) : SendSoFar cfg s.trace (acceptSend c s) :=
  ⟨fun _ hs => Option.some.inj hs ▸ rfl, [.req (sendWord c)], rfl, nofun⟩

end SendSoFar

end

/-- Settles O22: acceptance writes no register, and no instant of a SEND writes another than these two values. -/
theorem sendWritesOnlyTheModeRegister : Obligations.SendWritesOnlyTheModeRegister := by
  intro cfg _ c s hidle
  rw [send, request_idle cfg _ hidle, finish]
  exact ((SendSoFar.acceptSend cfg c s).runOp _).writes

end Sys2Proof.Machine

namespace Sys2Proof.Machine

open Sys2Proof.Safety

/-! ### Words that are ignored or dropped (43 R191, R196) -/

/-- Settles O11: each of these rows is the ignored word. -/
theorem ignoredWordsChangeNothing : Obligations.IgnoredWordsChangeNothing := fun _ =>
  ⟨rfl, fun _ _ => rfl, fun _ _ => rfl, fun _ _ => rfl, fun _ => rfl, fun _ => rfl, fun _ => rfl⟩

theorem mem_allSends : ∀ p ∈ allSends, p.1 = sendOfCode p.2 := by decide

/-- A request row runs as the operation it accepts (43 R190). -/
theorem exec_of_mem_acceptedRequests {i : Instr} (hi : i ∈ acceptedRequests) :
    ∃ f, ∀ s, exec i s = .next (request Config.hw f s) := by
  simp only [acceptedRequests, List.mem_append, List.mem_cons, List.not_mem_nil, or_false, List.mem_map] at hi
  rcases hi with (rfl | rfl) | ⟨p, hp, rfl⟩
  · exact ⟨acceptBegin, fun _ => rfl⟩
  · exact ⟨acceptStatus, fun _ => rfl⟩
  · obtain ⟨-, hexec⟩ := exec_sendOfCode p.2
    exact ⟨acceptSend p.2, mem_allSends p hp ▸ hexec⟩

/-- Settles O12: a request tests `busy`, and an instant without a reset drops what was presented. -/
theorem busyEngineDropsRequests : Obligations.BusyEngineDropsRequests := by
  refine ⟨fun i hi s hb => ?_, fun cfg s w rest _ hword => ?_⟩
  · obtain ⟨f, hexec⟩ := exec_of_mem_acceptedRequests hi
    rw [hexec, request_busy Config.hw f hb]
  · have hpass : passInstant s = passInstant { s with hostIn := .idle :: rest } := by simp [passInstant, hword]
    rw [tick_sequence cfg (s := s) (by simp [hword]),
      tick_sequence cfg (s := { s with hostIn := .idle :: rest }) (by simp), hpass]

/-! ### A run and the host's list (43 R191, 70 R251) -/

theorem withHost_of_hostIn {l : List HostIn} {s : State} (h : s.hostIn = l) : withHost l s = s := by
  subst h; rfl

theorem HostBlind.hostIn {f : State → State} (hf : HostBlind f) (s : State) : (f s).hostIn = s.hostIn := by
  have h := hf s.hostIn s
  rw [withHost_of_hostIn rfl] at h
  rw [h]; rfl

theorem tick_hostIn_of_silent (cfg : Config) {s : State} (h : s.hostIn = []) : (tick cfg s).hostIn = [] := by
  rw [tick_sequence cfg (by simp [h]), (sequence_hostBlind cfg).hostIn, passInstant_hostIn, h, List.tail_nil]

theorem runOp_hostIn_of_silent (cfg : Config) (n : Nat) {s : State} (h : s.hostIn = []) :
    (runOp cfg n s).hostIn = [] := by
  induction n generalizing s with
  | zero => exact h
  | succ n ih =>
    rw [runOp_succ]
    split
    · exact ih (tick_hostIn_of_silent cfg h)
    · exact h

/-- The host drops out of a run of at most `n` instants: no reset comes before the run's end, and the run is the silent
host's, some of the list consumed. -/
def WordsDropped (cfg : Config) (n : Nat) (s : State) : Prop :=
  ∃ k, (∀ x ∈ s.hostIn.take k, x ≠ HostIn.reset) ∧
    runOp cfg n s = withHost (s.hostIn.drop k) (runOp cfg n (withHost [] s))

/-- The host aborts a run of at most `n` instants: reset comes while the silent host's operation is in progress. -/
def ResetAborts (cfg : Config) (n : Nat) (s : State) : Prop :=
  ∃ quiet rest, (∀ x ∈ quiet, x ≠ HostIn.reset) ∧ s.hostIn = quiet ++ .reset :: rest ∧
    (runOp cfg quiet.length (withHost [] s)).busy = true ∧
    runOp cfg n s = applyReset (withHost rest (runOp cfg quiet.length (withHost [] s)))

theorem wordsDropped_of_idle (cfg : Config) (n : Nat) {s : State} (h : s.busy = false) : WordsDropped cfg n s :=
  ⟨0, by simp, by rw [runOp_idle cfg n h, runOp_idle cfg n (s := withHost [] s) h]; rfl⟩

theorem resetAborts_of_reset (cfg : Config) (n : Nat) {s : State} {rest : List HostIn} (hb : s.busy = true)
    (h : s.hostIn = .reset :: rest) : ResetAborts cfg (n + 1) s := by
  refine ⟨[], rest, by simp, h, hb, ?_⟩
  rw [runOp_busy cfg n hb, tick_reset cfg h, runOp_idle cfg n (s := applyReset (passInstant s)) rfl]
  simp [applyReset, withHost, h, runOp_zero]

section
variable {cfg : Config} {n : Nat} {s : State} {x : HostIn} {tail : List HostIn}

theorem wordsDropped_of_silent (h : s.hostIn = []) : WordsDropped cfg n s := by
  have hend : (runOp cfg n s).hostIn = [] := runOp_hostIn_of_silent cfg n h
  exact ⟨0, by simp, by rw [withHost_of_hostIn h, h, List.drop_nil, withHost_of_hostIn hend]⟩

theorem runOp_silent_succ (hb : s.busy = true) :
    runOp cfg (n + 1) (withHost [] s) = runOp cfg n (tick cfg (withHost [] s)) := runOp_busy cfg n hb

/-- Past an entry other than reset, the run is that of the silent host's next state, before the rest of the list. -/
theorem runOp_cons (hb : s.busy = true) (hhost : s.hostIn = x :: tail) (hx : x ≠ .reset) :
    runOp cfg (n + 1) s = runOp cfg n (withHost tail (tick cfg (withHost [] s))) := by
  rw [runOp_busy cfg n hb, tick_quiet cfg (by simp [hhost, hx]), hhost, List.tail_cons]

theorem withHost_silent_tick (l : List HostIn) :
    withHost [] (withHost l (tick cfg (withHost [] s))) = tick cfg (withHost [] s) :=
  withHost_of_hostIn (tick_hostIn_of_silent cfg (s := withHost [] s) rfl)

theorem WordsDropped.cons (hb : s.busy = true) (hhost : s.hostIn = x :: tail) (hx : x ≠ .reset)
    (h : WordsDropped cfg n (withHost tail (tick cfg (withHost [] s)))) : WordsDropped cfg (n + 1) s := by
  obtain ⟨k, hk, e⟩ := h
  rw [withHost_silent_tick] at e
  refine ⟨k + 1, ?_, ?_⟩
  · rw [hhost, List.take_succ_cons, List.forall_mem_cons]
    exact ⟨hx, hk⟩
  · rw [runOp_cons hb hhost hx, e, runOp_silent_succ hb, hhost, List.drop_succ_cons]
    rfl

theorem ResetAborts.cons (hb : s.busy = true) (hhost : s.hostIn = x :: tail) (hx : x ≠ .reset)
    (h : ResetAborts cfg n (withHost tail (tick cfg (withHost [] s)))) : ResetAborts cfg (n + 1) s := by
  obtain ⟨quiet, rest, hquiet, hlist, hbusy, e⟩ := h
  rw [withHost_silent_tick] at hbusy e
  have htail : tail = quiet ++ .reset :: rest := hlist
  refine ⟨x :: quiet, rest, List.forall_mem_cons.mpr ⟨hx, hquiet⟩, ?_, ?_, ?_⟩
  · rw [hhost, htail, List.cons_append]
  · rw [List.length_cons, runOp_silent_succ hb]
    exact hbusy
  · rw [runOp_cons hb hhost hx, e, List.length_cons, runOp_silent_succ hb]

end

/-- What the host does at a run's instants is dropped, or it is a reset that aborts the operation. -/
theorem runOp_host (cfg : Config) (n : Nat) : ∀ s : State, WordsDropped cfg n s ∨ ResetAborts cfg n s := by
  induction n with
  | zero => exact fun s => .inl ⟨0, by simp, rfl⟩
  | succ n ih =>
    intro s
    cases hb : s.busy with
    | false => exact .inl (wordsDropped_of_idle cfg _ hb)
    | true =>
      rcases hhost : s.hostIn with _ | ⟨x, tail⟩
      · exact .inl (wordsDropped_of_silent hhost)
      · by_cases hx : x = .reset
        · exact .inr (resetAborts_of_reset cfg n hb (hx ▸ hhost))
        · exact (ih _).imp (.cons hb hhost hx) (.cons hb hhost hx)

/-- Settles O13: with no reset in the list, what the host does is dropped. -/
theorem hostWordsCannotTouchAnOperation : Obligations.HostWordsCannotTouchAnOperation := by
  intro cfg s _ hquiet
  rcases runOp_host cfg (opInstants cfg) s with ⟨k, -, e⟩ | ⟨quiet, rest, -, hlist, -⟩
  · exact ⟨k, e⟩
  · exact absurd rfl (hquiet .reset (by simp [hlist]))

/-! ### STATUS (43 R194) -/

/-- STATUS is one instant after its acceptance. -/
theorem status_eq (cfg : Config) {s : State} (hidle : s.busy = false) (hquiet : s.hostIn = []) :
    status cfg s = statusProgram (acceptStatus s) := by
  have hrun : Running (acceptStatus s) := ⟨rfl, hquiet, rfl⟩
  have ht1 : Runs cfg 1 (acceptStatus s) (statusProgram (acceptStatus s)) := Runs.one hrun rfl
  rw [status, request_idle cfg _ hidle, finish_of_runs ht1 (by rw [opInstants]; omega) rfl]

/-- Settles O15: acceptance and T1. -/
theorem statusReportsReadiness : Obligations.StatusReportsReadiness := by
  intro s hidle hquiet
  have harm : exec .status s = .next (status Config.hw s) := rfl
  rw [harm, status_eq Config.hw hidle hquiet]
  simp [statusProgram, complete_eq, acceptStatus, accept_eq, readyOut, hidle, requestWord]

end Sys2Proof.Machine

namespace Sys2Proof.Machine

open Sys2Proof.Safety

/-- An operation that the silent host's engine ends in `t`: the host drops out of it, or a reset aborts it. -/
theorem finish_host {cfg : Config} {s t : State} (h : finish cfg (withHost [] s) = t) :
    (∃ n, (∀ x ∈ s.hostIn.take n, x ≠ HostIn.reset) ∧ finish cfg s = withHost (s.hostIn.drop n) t) ∨
    (∃ quiet rest, (∀ x ∈ quiet, x ≠ HostIn.reset) ∧ s.hostIn = quiet ++ .reset :: rest ∧
      (runOp cfg quiet.length (withHost [] s)).busy = true ∧
      finish cfg s = applyReset (withHost rest (runOp cfg quiet.length (withHost [] s)))) := by
  rw [← h]
  exact runOp_host cfg (opInstants cfg) s

/-! ### SEND, part by part (43 R193) -/

/-- S4: the payload and its frame, in their places. -/
def loadFrame (cfg : Config) (p : Payload) (s : State) : State :=
  setFbuf (frameOf cfg p) (buildInto cfg (some p) (lookupInto cfg s.cmd s))

/-- S7 to S9: Sleep, whose failure ends nothing early (42 R164). -/
def sleepPart (cfg : Config) (s : State) : State :=
  complete false (if (enterMode cfg .sleep s).ok then setErr .none (enterMode cfg .sleep s) else enterMode cfg .sleep s)

/-- S5 to S9: Transmit and, when it is entered, the transmission and Sleep (42 R163). -/
def transmitPart (cfg : Config) (s : State) : State :=
  if (enterMode cfg .transmit s).ok then
    sleepPart cfg (transmitFrame cfg (enterMode cfg .transmit s).fbuf (enterMode cfg .transmit s))
  else complete false (enterMode cfg .transmit s)

section
variable {cfg : Config} {s : State}

theorem sendProgram_of_notReady (hr : readyOut s = false) :
    sendProgram cfg s = complete false (setErr .notReady s) := by
  simp only [sendProgram, hr, Bool.not_false, if_true]

theorem sendProgram_of_noPayload (hr : readyOut s = true) (hp : catalogLookup cfg s.cmd = none) :
    sendProgram cfg s = complete false (setErr .unknownCmd (lookupInto cfg s.cmd s)) := by
  have hlookup : (lookupInto cfg s.cmd s).lookup = none := hp
  simp only [sendProgram, hr, hlookup, Bool.not_true, Bool.false_eq_true, if_false]

theorem sendProgram_of_payload {p : Payload} (hr : readyOut s = true) (hp : catalogLookup cfg s.cmd = some p) :
    sendProgram cfg s = transmitPart cfg (loadFrame cfg p s) := by
  have hlookup : (lookupInto cfg s.cmd s).lookup = some p := hp
  simp only [sendProgram, hr, hlookup, Bool.not_true, Bool.false_eq_true, if_false]
  rw [← loadFrame, transmitPart]
  cases (enterMode cfg .transmit (loadFrame cfg p s)).ok <;> rfl

theorem runs_sleepPart (hc : configWf cfg = true) (h : Running s) :
    Runs cfg (3 * cfg.timeoutUs + 5) (goto .s7 .modeWrite s) (sleepPart cfg s) := by
  obtain ⟨hT0, hT, -, -⟩ := configWf_bounds hc
  have hs7 := runs_enterMode (m := .sleep) (here := .s7) (yes := goto .s8 (.item 0)) (no := goto .s8 (.item 0))
    (fun s hs => by simp only [sequence, hs, stepS7]) (fun _ _ _ => rfl) (fun _ _ _ => rfl) hT hT0 h
  rw [ite_self] at hs7
  have hslept : Running (enterMode cfg .sleep s) := h.enterMode cfg .sleep
  rw [sleepPart]
  generalize enterMode cfg .sleep s = t at hs7 hslept
  have hs8 : sequence cfg (goto .s8 (.item 0) t) = goto .s9 (.item 0) (if t.ok then setErr .none t else t) := by
    have hstep : sequence cfg (goto .s8 (.item 0) t) = stepS8 (goto .s8 (.item 0) t) := rfl
    rw [hstep, stepS8, goto_ok]
    cases t.ok <;> rfl
  have hrun : Running (if t.ok then setErr .none t else t) := by
    split
    · exact hslept.setErr .none
    · exact hslept
  exact (hs7.trans ((Runs.one (hslept.goto .s8 (.item 0)) hs8).trans (runs_stepS9 hrun))).mono (by omega)

theorem runs_transmitPart (hc : configWf cfg = true) (h : Running s) :
    Runs cfg (6 * cfg.timeoutUs + 334 * cfg.reps + 8) (goto .s5 .modeWrite s) (transmitPart cfg s) := by
  obtain ⟨hT0, hT, hreps, hreps8⟩ := configWf_bounds hc
  have hs5 := runs_enterMode (m := .transmit) (here := .s5) (yes := fun s => goto .s6 .symPin (setIdx 0 (setRep 0 s)))
    (no := goto .s9 (.item 0))
    (fun s hs => by simp only [sequence, hs, stepS5]) (fun _ _ _ => rfl) (fun _ _ _ => rfl) hT hT0 h
  have hentered : Running (enterMode cfg .transmit s) := h.enterMode cfg .transmit
  rw [transmitPart]
  generalize enterMode cfg .transmit s = t at hs5 hentered
  cases hok : t.ok
  · rw [if_neg (by simp [hok])] at hs5 ⊢
    exact (hs5.trans (runs_stepS9 hentered)).mono (by omega)
  · rw [if_pos hok] at hs5
    exact (hs5.trans ((runs_transmit hreps8 hreps hentered).trans
      (runs_sleepPart hc (hentered.transmitFrame cfg t.fbuf)))).mono (by omega)

/-- S3 of a code without a payload, and S9 (43 R198). -/
theorem runs_unknownCmd (h : Running s) (hp : catalogLookup cfg s.cmd = none) :
    Runs cfg 2 (goto .s3 (.item 0) s) (complete false (setErr .unknownCmd (lookupInto cfg s.cmd s))) := by
  have hs3 : sequence cfg (goto .s3 (.item 0) s) =
      goto .s9 (.item 0) (setErr .unknownCmd (lookupInto cfg s.cmd s)) := if_pos (Option.isNone_iff_eq_none.mpr hp)
  exact (Runs.one (h.goto .s3 (.item 0)) hs3).trans (runs_stepS9 ((h.lookupInto cfg s.cmd).setErr .unknownCmd))

/-- S3 and S4 of a code with a payload. -/
theorem runs_loadFrame {p : Payload} (h : Running s) (hp : catalogLookup cfg s.cmd = some p) :
    Runs cfg 2 (goto .s3 (.item 0) s) (goto .s5 .modeWrite (loadFrame cfg p s)) := by
  have hs3 : sequence cfg (goto .s3 (.item 0) s) = goto .s4 (.item 0) (lookupInto cfg s.cmd s) :=
    if_neg (by simp [lookupInto, hp])
  have hs4 : stepS4 cfg (goto .s4 (.item 0) (lookupInto cfg s.cmd s)) = goto .s5 .modeWrite (loadFrame cfg p s) := by
    have hlookup : (goto .s4 (.item 0) (lookupInto cfg s.cmd s)).lookup = some p := hp
    rw [stepS4, hlookup]
    rfl
  exact (Runs.one (h.goto .s3 (.item 0)) hs3).trans (Runs.one ((h.lookupInto cfg s.cmd).goto .s4 (.item 0)) hs4)

/-- From acceptance the sequencer carries out SEND's straight-line program. -/
theorem runs_sendProgram (hc : configWf cfg = true) (h : Running s) (hs : s.step = some .s2) :
    Runs cfg (6 * cfg.timeoutUs + 334 * cfg.reps + 11) s (sendProgram cfg s) := by
  have hs2 : Runs cfg 1 s (stepS2 s) := Runs.one h (by simp only [sequence, hs])
  cases hr : readyOut s
  case false =>
    rw [stepS2, if_neg (by simp [hr])] at hs2
    rw [sendProgram_of_notReady hr]
    exact (hs2.trans (runs_stepS9 (h.setErr .notReady))).mono (by omega)
  case true =>
    rw [stepS2, if_pos hr] at hs2
    cases hp : catalogLookup cfg s.cmd with
    | none =>
      rw [sendProgram_of_noPayload hr hp]
      exact (hs2.trans (runs_unknownCmd h hp)).mono (by omega)
    | some p =>
      have hloaded : Running (loadFrame cfg p s) :=
        ((h.lookupInto cfg s.cmd).buildInto cfg (some p)).setFbuf (frameOf cfg p)
      rw [sendProgram_of_payload hr hp]
      exact ((hs2.trans (runs_loadFrame h hp)).trans (runs_transmitPart hc hloaded)).mono (by omega)

theorem sendProgram_busy (cfg : Config) (s : State) : (sendProgram cfg s).busy = false := by
  cases hr : readyOut s
  · rw [sendProgram_of_notReady hr, complete_busy]
  · cases hp : catalogLookup cfg s.cmd with
    | none => rw [sendProgram_of_noPayload hr hp, complete_busy]
    | some p =>
      rw [sendProgram_of_payload hr hp, transmitPart]
      split
      · exact complete_busy ..
      · exact complete_busy ..

/-- With a silent host the instants given to an operation carry SEND's program out. -/
theorem finish_acceptSend (hc : configWf cfg = true) (c : BitVec 4) (hquiet : s.hostIn = []) :
    finish cfg (acceptSend c s) = sendProgram cfg (acceptSend c s) :=
  finish_of_runs (runs_sendProgram hc (running_acceptSend c hquiet) rfl) (by rw [opInstants]; omega)
    (sendProgram_busy cfg _)

end

/-- Settles O21: the silent host's run is the program, and the host drops out of a run or aborts it. -/
theorem sendRefinesItsProgram : Obligations.SendRefinesItsProgram := by
  intro cfg hc c s hidle
  rw [send, request_idle cfg _ hidle]
  exact finish_host (s := acceptSend c s) (finish_acceptSend hc c (s := withHost [] s) rfl)

/-! ### BEGIN, part by part (43 R192) -/

/-- B14 after a failure. -/
def failPart (s : State) : State := complete false (setR false s)

/-- B7 to B14: the configuration and Sleep. -/
def configurePart (cfg : Config) (s : State) : State :=
  if (configureRadio cfg s).ok then
    complete true (setR true (setErr .none (setRstate .ready (configureRadio cfg s))))
  else failPart (configureRadio cfg s)

/-- B6 to B14 on a hardware whose BEGIN enters Standby (42 R178). -/
def standbyPart (cfg : Config) (s : State) : State :=
  if (enterMode cfg .standby s).ok then configurePart cfg (enterMode cfg .standby s)
  else failPart (enterMode cfg .standby s)

section
variable {cfg : Config} {s : State}

theorem configurePart_eq (cfg : Config) (s : State) : configurePart cfg s =
    if !(configureRadio cfg s).ok then complete false (setR false (configureRadio cfg s))
    else complete true (setR true (setErr .none (setRstate .ready (configureRadio cfg s)))) := by
  rw [configurePart]
  cases (configureRadio cfg s).ok <;> rfl

theorem beginProgram_of_mismatch (hid : idMatches (checkId cfg (resetPulse cfg s)).idSeen = false) :
    beginProgram cfg s = failPart (setErr .idMismatch (checkId cfg (resetPulse cfg s))) := by
  simp only [beginProgram, hid, Bool.not_false, if_true]
  rfl

theorem beginProgram_of_match (hid : idMatches (checkId cfg (resetPulse cfg s)).idSeen = true) :
    beginProgram cfg s =
      if cfg.beginEntersStandby then standbyPart cfg (checkId cfg (resetPulse cfg s))
      else configurePart cfg (checkId cfg (resetPulse cfg s)) := by
  have hok : (checkId cfg (resetPulse cfg s)).ok = true := hid
  simp only [beginProgram, hid, Bool.not_true, Bool.false_eq_true, if_false]
  cases cfg.beginEntersStandby
  · simp only [Bool.false_eq_true, if_false, hok, Bool.not_true, configurePart_eq]
  · simp only [if_true, standbyPart]
    cases hs : (enterMode cfg .standby (checkId cfg (resetPulse cfg s))).ok
    · rfl
    · simp only [Bool.not_true, Bool.false_eq_true, if_false, if_true, configurePart_eq]

theorem runs_failPart (h : Running s) : Runs cfg 1 (beginFails s) (failPart s) :=
  Runs.one ((h.setR false).goto .b14 (.item 0)) rfl

/-- B2 and B3 are the reset pulse. -/
theorem runs_resetPulse (h : Running s) (hs : s.step = some .b2) (hsub : s.sub = .item 0) :
    Runs cfg 4 s (goto .b4 (.item 0) (resetPulse cfg s)) := by
  have hraised := h.pinWrite .reset true
  have hheld := hraised.hold cfg.tRstPulseUs
  have hlowered := hheld.pinWrite .reset false
  have hb2 : sequence cfg s = goto .b2 (.item 1) (pinWrite .reset true s) := by
    simp only [sequence, hs, stepB2, hsub, subIndex]
  exact (((Runs.one h hb2).trans (Runs.one (hraised.goto .b2 (.item 1)) rfl)).trans
    (Runs.one (hheld.goto .b2 (.item 2)) rfl)).trans (Runs.one (hlowered.goto .b3 (.item 0)) rfl)

/-- B4 is the identification read. -/
theorem runs_checkId (h : Running s) :
    Runs cfg 2 (goto .b4 (.item 0) s) (goto .b5 (.item 0) (checkId cfg s)) := by
  have hread := runs_busInstant (cfg := cfg) (h.goto .b4 (.item 0))
    (transfer := fun s => goto .b5 (.item 0) (recordId (readTransfer cfg.regVersion s))) rfl rfl
  have hcs : csAssert (goto .b4 (.item 0) s) = goto .b4 (.item 0) (csAssert s) := rfl
  rw [hcs, readTransfer_goto] at hread
  exact hread

theorem busWrites_append (cfg : Config) (ws ws' : List (RegAddr × Byte)) (s : State) :
    busWrites cfg (ws ++ ws') s = busWrites cfg ws' (busWrites cfg ws s) := List.foldl_append

/-- B7 to B11 are the configuration writes (42 R177 steps 1 to 5). -/
theorem runs_configWrites (h : Running s) :
    Runs cfg (2 * cfg.paWrites.length + 19) (goto .b7 (.item 0) s)
      (goto .b12 .modeWrite (busWrites cfg (configWrites cfg) s)) := by
  have h8 := h.busWrites cfg [(cfg.regDatamodul, cfg.valDatamodul)]
  have h9 := h8.busWrites cfg (freqWrites cfg)
  have h10 := h9.busWrites cfg (bitrateWrites cfg)
  have h11 := h10.busWrites cfg cfg.paWrites
  have b7 := runs_writes_all (cfg := cfg) (ws := [(cfg.regDatamodul, cfg.valDatamodul)]) (here := .b7)
    (next := goto .b8 (.item 0))
    (fun s hs => by simp only [sequence, hs, stepB7]) (fun _ _ _ => rfl) h
  have b8 := runs_writes_all (cfg := cfg) (ws := freqWrites cfg) (here := .b8) (next := goto .b9 (.item 0))
    (fun s hs => by simp only [sequence, hs, stepB8]) (fun _ _ _ => rfl) h8
  have b9 := runs_writes_all (cfg := cfg) (ws := bitrateWrites cfg) (here := .b9) (next := goto .b10 (.item 0))
    (fun s hs => by simp only [sequence, hs, stepB9]) (fun _ _ _ => rfl) h9
  have b10 := runs_writes_all (cfg := cfg) (ws := cfg.paWrites) (here := .b10) (next := goto .b11 (.item 0))
    (fun s hs => by simp only [sequence, hs, stepB10]) (fun _ _ _ => rfl) h10
  have b11 := runs_writes_all (cfg := cfg) (ws := [(cfg.regClkout, cfg.valClkoutOff)]) (here := .b11)
    (next := goto .b12 .modeWrite)
    (fun s hs => by simp only [sequence, hs, stepB11]) (fun _ _ _ => rfl) h11
  simp only [configWrites, busWrites_append]
  exact ((((b7.trans b8).trans b9).trans b10).trans b11).mono (by simp [freqWrites, bitrateWrites]; omega)

/-- B7 to B12 are CONFIGURE_RADIO, and B13 and B14 follow. -/
theorem runs_configurePart (hc : configWf cfg = true) (h : Running s) :
    Runs cfg (3 * cfg.timeoutUs + 2 * cfg.paWrites.length + 24) (goto .b7 (.item 0) s) (configurePart cfg s) := by
  obtain ⟨hT0, hT, -, -⟩ := configWf_bounds hc
  have hb12 := runs_enterMode (m := .sleep) (here := .b12) (yes := goto .b13 (.item 0)) (no := beginFails)
    (fun s hs => by simp only [sequence, hs, stepB12]) (fun _ _ _ => rfl) (fun _ _ _ => rfl) hT hT0
    (h.busWrites cfg (configWrites cfg))
  rw [← configureRadio] at hb12
  have hconfigured : Running (configureRadio cfg s) := h.configureRadio cfg
  have hsofar := (runs_configWrites h).trans hb12
  rw [configurePart]
  generalize configureRadio cfg s = t at hsofar hconfigured
  cases hok : t.ok
  · rw [if_neg (by simp [hok])] at hsofar ⊢
    exact (hsofar.trans (runs_failPart hconfigured)).mono (by omega)
  · rw [if_pos hok] at hsofar
    have hready : Running (setR true (setErr .none (setRstate .ready t))) :=
      ((hconfigured.setRstate .ready).setErr .none).setR true
    exact (hsofar.trans ((Runs.one (hconfigured.goto .b13 (.item 0)) rfl).trans
      (Runs.one (hready.goto .b14 (.item 0)) rfl))).mono (by omega)

theorem runs_standbyPart (hc : configWf cfg = true) (hsb : cfg.beginEntersStandby = true) (h : Running s) :
    Runs cfg (6 * cfg.timeoutUs + 2 * cfg.paWrites.length + 27) (goto .b6 .modeWrite s) (standbyPart cfg s) := by
  obtain ⟨hT0, hT, -, -⟩ := configWf_bounds hc
  have hb6 := runs_enterMode (m := .standby) (here := .b6) (yes := goto .b7 (.item 0)) (no := beginFails)
    (fun s hs => by simp only [sequence, hs, stepB6, hsb, if_true]) (fun _ _ _ => rfl) (fun _ _ _ => rfl) hT hT0 h
  have hentered : Running (enterMode cfg .standby s) := h.enterMode cfg .standby
  rw [standbyPart]
  generalize enterMode cfg .standby s = t at hb6 hentered
  cases hok : t.ok
  · rw [if_neg (by simp [hok])] at hb6 ⊢
    exact (hb6.trans (runs_failPart hentered)).mono (by omega)
  · rw [if_pos hok] at hb6
    exact (hb6.trans (runs_configurePart hc hentered)).mono (by omega)

/-- From acceptance the sequencer carries out BEGIN's straight-line program. -/
theorem runs_beginProgram (hc : configWf cfg = true) (h : Running s) (hs : s.step = some .b2) (hsub : s.sub = .item 0) :
    Runs cfg (6 * cfg.timeoutUs + 2 * cfg.paWrites.length + 34) s (beginProgram cfg s) := by
  have hpulsed : Running (resetPulse cfg s) := h.resetPulse cfg
  have hchecked : Running (checkId cfg (resetPulse cfg s)) := hpulsed.checkId cfg
  have hb5run := (runs_resetPulse h hs hsub).trans (runs_checkId (cfg := cfg) hpulsed)
  cases hid : idMatches (checkId cfg (resetPulse cfg s)).idSeen
  case false =>
    rw [beginProgram_of_mismatch hid]
    generalize checkId cfg (resetPulse cfg s) = t at hb5run hchecked hid
    have hb5 : sequence cfg (goto .b5 (.item 0) t) = beginFails (setErr .idMismatch t) := if_neg (by simp [hid])
    exact (hb5run.trans ((Runs.one (hchecked.goto .b5 (.item 0)) hb5).trans
      (runs_failPart (hchecked.setErr .idMismatch)))).mono (by omega)
  case true =>
    rw [beginProgram_of_match hid]
    generalize checkId cfg (resetPulse cfg s) = t at hb5run hchecked hid
    have hb5 : sequence cfg (goto .b5 (.item 0) t) = goto .b6 .modeWrite t := if_pos hid
    have hb6run := hb5run.trans (Runs.one (hchecked.goto .b5 (.item 0)) hb5)
    cases hsb : cfg.beginEntersStandby
    · have hb6 : sequence cfg (goto .b6 .modeWrite t) = goto .b7 (.item 0) t := if_neg (by simp [hsb])
      rw [if_neg Bool.false_ne_true]
      exact (hb6run.trans ((Runs.one (hchecked.goto .b6 .modeWrite) hb6).trans
        (runs_configurePart hc hchecked))).mono (by omega)
    · rw [if_pos rfl]
      exact (hb6run.trans (runs_standbyPart hc hsb hchecked)).mono (by omega)

theorem configurePart_busy (cfg : Config) (s : State) : (configurePart cfg s).busy = false := by
  rw [configurePart]
  split
  · exact complete_busy ..
  · exact complete_busy ..

theorem standbyPart_busy (cfg : Config) (s : State) : (standbyPart cfg s).busy = false := by
  rw [standbyPart]
  split
  · exact configurePart_busy ..
  · exact complete_busy ..

theorem beginProgram_busy (cfg : Config) (s : State) : (beginProgram cfg s).busy = false := by
  cases hid : idMatches (checkId cfg (resetPulse cfg s)).idSeen
  · rw [beginProgram_of_mismatch hid]
    exact complete_busy ..
  · rw [beginProgram_of_match hid]
    split
    · exact standbyPart_busy ..
    · exact configurePart_busy ..

theorem finish_acceptBegin (hc : configWf cfg = true) (hquiet : s.hostIn = []) :
    finish cfg (acceptBegin s) = beginProgram cfg (acceptBegin s) := by
  have hrun : Running (acceptBegin s) := ⟨rfl, hquiet, rfl⟩
  exact finish_of_runs (runs_beginProgram hc hrun rfl rfl) (by rw [opInstants]; omega) (beginProgram_busy cfg _)

end

/-- Settles O27: the silent host's run is the program, and the host drops out of a run or aborts it. -/
theorem beginRefinesItsProgram : Obligations.BeginRefinesItsProgram := by
  intro cfg hc s hidle
  rw [begin, request_idle cfg _ hidle]
  exact finish_host (s := acceptBegin s) (finish_acceptBegin hc (s := withHost [] s) rfl)

end Sys2Proof.Machine

namespace Sys2Proof.Machine

open Sys2Proof.Safety

/-! ### The other agents' inputs of two states -/

/-- The transceiver gives both states the same answers from now on. -/
structure SameAnswers (s a : State) : Prop where
  busIn : s.busIn = a.busIn
  busDraws : s.busDraws = a.busDraws

/-- The time base gives both states the same readings from now on. -/
structure SameReadings (s b : State) : Prop where
  timeIn : s.timeIn = b.timeIn
  timeDraws : s.timeDraws = b.timeDraws

section
variable {s a b : State}

theorem SameAnswers.nextAnswer (h : SameAnswers s a) (r : RegAddr) : nextAnswer r s = nextAnswer r a :=
  nextAnswer_congr r h.busIn h.busDraws

theorem SameAnswers.takeAnswer (h : SameAnswers s a) : SameAnswers (takeAnswer s) (takeAnswer a) :=
  ⟨by simp [h.busIn], by simp [h.busIn, h.busDraws]⟩

theorem SameReadings.nextReading (h : SameReadings s b) : nextReading s = nextReading b :=
  nextReading_congr h.timeIn h.timeDraws

theorem SameReadings.takeReading (h : SameReadings s b) : SameReadings (takeReading s) (takeReading b) :=
  ⟨by simp [h.timeIn], by simp [h.timeIn, h.timeDraws]⟩

end

/-! ### A mode entry whose first read decides it (42 R160, R161) -/

/-- What a mode entry leaves when its first read, answered as in `a`, is ready; `b` gives the reading of `t0`. -/
def enteredAtOnce (cfg : Config) (m : Mode) (a b s : State) : State := { s with
  radioMode := some (modeVal m), pmode := m, t0 := nextReading b, pollK := 0, ok := true,
  rdata := nextAnswer cfg.regStatus a, pinCs := true,
  busIn := (takeAnswer a).busIn, busDraws := (takeAnswer a).busDraws,
  timeIn := (takeReading b).timeIn, timeDraws := (takeReading b).timeDraws,
  trace := s.trace ++ [.busW cfg.regOpmode (modeVal m), .time (nextReading b),
    .busR cfg.regStatus (nextAnswer cfg.regStatus a)] }

/-- What a mode entry leaves when its first read, answered as in `a`, is not ready and its first time test, read as `t`,
times out; `b` gives the readings. -/
def timedOutAtOnce (cfg : Config) (m : Mode) (a b : State) (t : Time) (s : State) : State := { s with
  radioMode := some (modeVal m), pmode := m, t0 := nextReading b, pollK := 1, ok := false,
  rstate := .faulted, err := timeoutCode m, rdata := nextAnswer cfg.regStatus a, pinCs := true,
  busIn := (takeAnswer a).busIn, busDraws := (takeAnswer a).busDraws,
  timeIn := (takeReading (takeReading b)).timeIn, timeDraws := (takeReading (takeReading b)).timeDraws,
  trace := s.trace ++ [.busW cfg.regOpmode (modeVal m), .time (nextReading b),
    .busR cfg.regStatus (nextAnswer cfg.regStatus a), .time t] }

section
variable {cfg : Config} {m : Mode} {s a b : State}

/-- A mode entry up to the reading of `t0`. -/
theorem pollBegin_busWrite_eq (hb : SameReadings s b) :
    pollBegin m (busWrite cfg cfg.regOpmode (modeVal m) s) = { s with
      radioMode := some (modeVal m), pinCs := true, pmode := m, t0 := nextReading b, pollK := 0,
      timeIn := (takeReading b).timeIn, timeDraws := (takeReading b).timeDraws,
      trace := s.trace ++ [.busW cfg.regOpmode (modeVal m), .time (nextReading b)] } := by
  have hwritten : SameReadings (busWrite cfg cfg.regOpmode (modeVal m) s) b := ⟨hb.timeIn, hb.timeDraws⟩
  rw [pollBegin_eq, hwritten.nextReading, hwritten.takeReading.timeIn, hwritten.takeReading.timeDraws, busWrite_eq,
    if_pos rfl]
  simp

/-- A mode entry up to its first read. -/
theorem busRead_pollBegin_busWrite_eq (ha : SameAnswers s a) (hb : SameReadings s b) :
    busRead cfg.regStatus (pollBegin m (busWrite cfg cfg.regOpmode (modeVal m) s)) = { s with
      radioMode := some (modeVal m), pinCs := true, pmode := m, t0 := nextReading b, pollK := 0,
      rdata := nextAnswer cfg.regStatus a,
      busIn := (takeAnswer a).busIn, busDraws := (takeAnswer a).busDraws,
      timeIn := (takeReading b).timeIn, timeDraws := (takeReading b).timeDraws,
      trace := s.trace ++ [.busW cfg.regOpmode (modeVal m), .time (nextReading b),
        .busR cfg.regStatus (nextAnswer cfg.regStatus a)] } := by
  have hbegun : SameAnswers (pollBegin m (busWrite cfg cfg.regOpmode (modeVal m) s)) a :=
    ⟨(pollBegin_busIn m _).trans ha.busIn, (pollBegin_busDraws m _).trans ha.busDraws⟩
  rw [busRead_eq, hbegun.nextAnswer, hbegun.takeAnswer.busIn, hbegun.takeAnswer.busDraws, pollBegin_busWrite_eq hb]
  simp

theorem enterMode_of_ready (hT : 0 < cfg.timeoutUs) (ha : SameAnswers s a) (hb : SameReadings s b)
    (hready : modeReady (nextAnswer cfg.regStatus a) = true) :
    enterMode cfg m s = enteredAtOnce cfg m a b s := by
  obtain ⟨n, hn⟩ := Nat.exists_eq_succ_of_ne_zero hT.ne'
  have hread := busRead_pollBegin_busWrite_eq (cfg := cfg) (m := m) ha hb
  rw [enterMode, waitModeReady, hn, pollLoop_ready, hread]
  · rfl
  · rw [hread]
    exact hready

theorem enterMode_of_timeout (hT : 0 < cfg.timeoutUs) (ha : SameAnswers s a) (hb : SameReadings s b)
    (hready : modeReady (nextAnswer cfg.regStatus a) = false) {t : Time}
    (ht : t = lawfulReading cfg (nextReading b) 1 (nextReading (takeReading b)))
    (hout : cfg.timeoutUs ≤ (t - nextReading b).toNat) :
    enterMode cfg m s = timedOutAtOnce cfg m a b t s := by
  obtain ⟨n, hn⟩ := Nat.exists_eq_succ_of_ne_zero hT.ne'
  have hread := busRead_pollBegin_busWrite_eq (cfg := cfg) (m := m) ha hb
  have htest : testReading cfg
      (busRead cfg.regStatus (pollBegin m (busWrite cfg cfg.regOpmode (modeVal m) s))) = t := by
    rw [hread, ht]
    rfl
  rw [enterMode, waitModeReady, hn, pollLoop_timedOut, pollNow_eq, htest, hread]
  · simp [pollFail, timedOutAtOnce]
  · rw [hread]
    simp [hready]
  · rw [htest, pollBegin_busWrite_eq hb]
    exact decide_eq_true hout

end

theorem enteredAtOnce_ok (cfg : Config) (m : Mode) (a b s : State) : (enteredAtOnce cfg m a b s).ok = true := rfl

theorem timedOutAtOnce_ok (cfg : Config) (m : Mode) (a b : State) (t : Time) (s : State) :
    (timedOutAtOnce cfg m a b t s).ok = false := rfl

/-! ### The same on this hardware -/

section
variable {m : Mode} {s a b : State}

theorem hw_timeoutUs_pos : 0 < Config.hw.timeoutUs := (configWf_bounds configWf_hw).1

theorem enterMode_hw_of_ready (ha : SameAnswers s a) (hb : SameReadings s b)
    (hready : modeReady (nextAnswer 0x27 a) = true) :
    enterMode Config.hw m s = enteredAtOnce Config.hw m a b s := enterMode_of_ready hw_timeoutUs_pos ha hb hready

theorem enterMode_hw_of_timeout (ha : SameAnswers s a) (hb : SameReadings s b)
    (hready : modeReady (nextAnswer 0x27 a) = false) {t : Time}
    (ht : t = lawfulReading Config.hw (nextReading b) 1 (nextReading (takeReading b)))
    (hout : 10000 ≤ (t - nextReading b).toNat) :
    enterMode Config.hw m s = timedOutAtOnce Config.hw m a b t s := by
  rw [← hw_timeoutUs] at hout
  exact enterMode_of_timeout hw_timeoutUs_pos ha hb hready ht hout

end

/-! ### SEND of a defined code on this hardware (43 R193, R199) -/

theorem mem_definedSends : ∀ p ∈ definedSends,
    p.1 = sendOfCode (BitVec.ofNat 4 p.2) ∧ sendWord (BitVec.ofNat 4 p.2) = BitVec.ofNat 8 (0x80 + p.2) := by decide

/-- The payload of a defined code, by its number. -/
def payloadOf (k : Fin 10) : Payload := Config.hw.payloads[k]

theorem catalogLookup_ofNat (k : Fin 10) : catalogLookup Config.hw (BitVec.ofNat 4 k) = some (payloadOf k) := by
  have hk : (BitVec.ofNat 4 k.val).toNat = k.val := by
    rw [BitVec.toNat_ofNat]; omega
  rw [catalogLookup_of_defined Config.hw (by omega)]
  simp only [hk]
  rfl

/-- The state of a SEND of a defined code at S5: accepted, with its frame built. -/
def loadedSend (k : Fin 10) (s : State) : State := { s with
  busy := true, op := .send, step := some .s2, sub := .item 0, done := false, cmd := BitVec.ofNat 4 k,
  lookup := some (payloadOf k), built := some (frameOf Config.hw (payloadOf k)),
  fbuf := frameOf Config.hw (payloadOf k),
  trace := s.trace ++ [.req (BitVec.ofNat 8 (0x80 + k))] }

/-- The state of a SEND of a defined code at S7, when Transmit was ready at once: the whole frame sent (log 22). -/
def sentFrame (k : Fin 10) (s : State) : State := { enteredAtOnce Config.hw .transmit s s (loadedSend k s) with
  rep := 4, idx := 165, pinData := false,
  trace := (enteredAtOnce Config.hw .transmit s s (loadedSend k s)).trace ++
    transmitEvents Config.hw (frameOf Config.hw (payloadOf k)) }

theorem sameAnswers_loadedSend (k : Fin 10) (s : State) : SameAnswers (loadedSend k s) s := ⟨rfl, rfl⟩

theorem sameReadings_loadedSend (k : Fin 10) (s : State) : SameReadings (loadedSend k s) s := ⟨rfl, rfl⟩

theorem sameAnswers_sentFrame (k : Fin 10) (s : State) : SameAnswers (sentFrame k s) (takeAnswer s) := ⟨rfl, rfl⟩

theorem sameReadings_sentFrame (k : Fin 10) (s : State) : SameReadings (sentFrame k s) (takeReading s) := ⟨rfl, rfl⟩

section
variable {s : State} {p : Instr × Fin 10}

/-- The acceptance of a defined SEND, and S2 to S4. -/
theorem exec_definedSend (hp : p ∈ definedSends) (hidle : s.busy = false) (hquiet : s.hostIn = [])
    (hr : s.rstate = .ready) : exec p.1 s = .next (transmitPart Config.hw (loadedSend p.2 s)) := by
  obtain ⟨hrow, hword⟩ := mem_definedSends p hp
  obtain ⟨-, hexec⟩ := exec_sendOfCode (BitVec.ofNat 4 p.2)
  have hready : readyOut (acceptSend (BitVec.ofNat 4 p.2) s) = true := (readyOut_iff _).mpr hr
  rw [hrow, hexec, send, request_idle Config.hw _ hidle, finish_acceptSend configWf_hw _ hquiet,
    sendProgram_of_payload hready (catalogLookup_ofNat p.2), loadedSend, ← hword]
  simp [loadFrame, setFbuf, buildInto, buildFrame, lookupInto, acceptSend, setCmd, accept_eq, catalogLookup_ofNat]

/-- A defined SEND whose Transmit is ready at once has sent its frame before Sleep. -/
theorem exec_definedSend_of_ready (hp : p ∈ definedSends) (hidle : s.busy = false) (hquiet : s.hostIn = [])
    (hr : s.rstate = .ready) (hready : modeReady (nextAnswer 0x27 s) = true) :
    exec p.1 s = .next (sleepPart Config.hw (sentFrame p.2 s)) := by
  rw [exec_definedSend hp hidle hquiet hr, transmitPart,
    enterMode_hw_of_ready (sameAnswers_loadedSend p.2 s) (sameReadings_loadedSend p.2 s) hready, enteredAtOnce_ok,
    if_pos rfl, transmitFrame_eq hw_reps]
  rfl

end

/-- Settles O18: both mode entries are ready at once. -/
theorem sendTransmitsTheFrame : Obligations.SendTransmitsTheFrame := by
  intro p hp s hidle hquiet hr hready hready'
  rw [exec_definedSend_of_ready hp hidle hquiet hr hready, sleepPart,
    enterMode_hw_of_ready (sameAnswers_sentFrame p.2 s) (sameReadings_sentFrame p.2 s) hready',
    enteredAtOnce_ok, if_pos rfl, complete_eq]
  simp [setErr, enteredAtOnce, sentFrame, loadedSend, modeVal, payloadOf, hidle]

/-- Settles O19: the Transmit entry times out, and S9 follows. -/
theorem sendTransmitTimeoutEndsTheSend : Obligations.SendTransmitTimeoutEndsTheSend := by
  intro p hp s hidle hquiet hr hready t ht hout
  rw [exec_definedSend hp hidle hquiet hr, transmitPart,
    enterMode_hw_of_timeout (sameAnswers_loadedSend p.2 s) (sameReadings_loadedSend p.2 s) hready ht hout,
    timedOutAtOnce_ok, if_neg Bool.false_ne_true, complete_eq]
  simp [timedOutAtOnce, loadedSend, modeVal, timeoutCode, payloadOf, hidle]

/-- Settles O20: Transmit is ready at once, the Sleep entry times out. -/
theorem sendSleepTimeoutFollowsTheTransmission : Obligations.SendSleepTimeoutFollowsTheTransmission := by
  intro p hp s hidle hquiet hr hready hready' t ht hout
  rw [exec_definedSend_of_ready hp hidle hquiet hr hready, sleepPart,
    enterMode_hw_of_timeout (sameAnswers_sentFrame p.2 s) (sameReadings_sentFrame p.2 s) hready'
      ht hout, timedOutAtOnce_ok, if_neg Bool.false_ne_true, complete_eq]
  simp [timedOutAtOnce, enteredAtOnce, sentFrame, loadedSend, modeVal, timeoutCode, payloadOf, hidle]

end Sys2Proof.Machine

namespace Sys2Proof.Machine

/-! ### BEGIN on this hardware (43 R192, R202) -/

/-- The state of a BEGIN at B5: accepted, the reset pulse done, the identification byte `v` read and tested. -/
def checkedBegin (v : Byte) (s : State) : State := { s with
  busy := true, op := .begin, step := some .b2, sub := .item 0, done := false, pinReset := false, pinCs := true,
  idSeen := v, ok := idMatches v, rdata := v,
  busIn := (takeAnswer s).busIn, busDraws := (takeAnswer s).busDraws,
  trace := s.trace ++ [.req 0x40, .pin .reset true, .hold 100, .pin .reset false, .hold 5000,
    .busR 0x10 v] }

/-- The state of a BEGIN at B7, when Standby was ready at once. -/
def standbyBegin (s : State) : State := enteredAtOnce Config.hw .standby (takeAnswer s) s (checkedBegin 0x24 s)

/-- The nine configuration writes of this hardware, as events (42 R177). -/
def configEvents : List Event :=
  [.busW 0x02 0x68, .busW 0x07 0x6C, .busW 0x08 0x7A, .busW 0x09 0xE1, .busW 0x03 0x25, .busW 0x04 0x80,
    .busW 0x11 0x5F, .busW 0x13 0x1A, .busW 0x26 0x07]

/-- The state of a BEGIN at B12: the configuration written. -/
def configuredBegin (s : State) : State := { standbyBegin s with trace := (standbyBegin s).trace ++ configEvents }

theorem sameAnswers_checkedBegin (v : Byte) (s : State) : SameAnswers (checkedBegin v s) (takeAnswer s) := ⟨rfl, rfl⟩

theorem sameReadings_checkedBegin (v : Byte) (s : State) : SameReadings (checkedBegin v s) s := ⟨rfl, rfl⟩

theorem sameAnswers_configuredBegin (s : State) : SameAnswers (configuredBegin s) (takeAnswer (takeAnswer s)) :=
  ⟨rfl, rfl⟩

theorem sameReadings_configuredBegin (s : State) : SameReadings (configuredBegin s) (takeReading s) := ⟨rfl, rfl⟩

theorem checkId_resetPulse_acceptBegin (s : State) :
    checkId Config.hw (resetPulse Config.hw (acceptBegin s)) = checkedBegin (nextAnswer 0x10 s) s := by
  have hpulsed : SameAnswers (resetPulse Config.hw (acceptBegin s)) s := ⟨rfl, rfl⟩
  rw [checkId_eq, hpulsed.nextAnswer, hpulsed.takeAnswer.busIn, hpulsed.takeAnswer.busDraws, resetPulse_eq, acceptBegin,
    accept_eq]
  simp [checkedBegin, requestWord]

theorem configureRadio_hw (s : State) : configureRadio Config.hw s =
    enterMode Config.hw .sleep { s with pinCs := true, trace := s.trace ++ configEvents } :=
  Host.Outcome.next.inj (exec_configureRadio s)

section
variable {s : State}

theorem exec_begin (hidle : s.busy = false) (hquiet : s.hostIn = []) :
    exec .begin s = .next (beginProgram Config.hw (acceptBegin s)) := by
  have harm : exec .begin s = .next (begin Config.hw s) := rfl
  rw [harm, begin, request_idle Config.hw _ hidle, finish_acceptBegin configWf_hw hquiet]

/-- The acceptance of a BEGIN on the expected hardware, and B2 to B5. -/
theorem exec_begin_of_match (hidle : s.busy = false) (hquiet : s.hostIn = []) (hid : nextAnswer 0x10 s = 0x24) :
    exec .begin s = .next (standbyPart Config.hw (checkedBegin 0x24 s)) := by
  have hchecked := checkId_resetPulse_acceptBegin s
  rw [hid] at hchecked
  rw [exec_begin hidle hquiet, beginProgram_of_match (by rw [hchecked]; rfl), if_pos hw_beginEntersStandby, hchecked]

/-- A BEGIN whose Standby is ready at once goes on with the configuration, and Sleep. -/
theorem exec_begin_of_ready (hidle : s.busy = false) (hquiet : s.hostIn = []) (hid : nextAnswer 0x10 s = 0x24)
    (hready : modeReady (nextAnswer 0x27 (takeAnswer s)) = true) :
    exec .begin s = .next (configurePart Config.hw (standbyBegin s)) ∧
      configureRadio Config.hw (standbyBegin s) = enterMode Config.hw .sleep (configuredBegin s) := by
  refine ⟨?_, configureRadio_hw _⟩
  rw [exec_begin_of_match hidle hquiet hid, standbyPart,
    enterMode_hw_of_ready (sameAnswers_checkedBegin 0x24 s) (sameReadings_checkedBegin 0x24 s) hready, enteredAtOnce_ok,
    if_pos rfl, standbyBegin]

end

/-- Settles O24: B5 finds another byte, and B14 follows. -/
theorem beginIdMismatchWritesNothing : Obligations.BeginIdMismatchWritesNothing := by
  intro s hidle hquiet hid
  have hchecked := checkId_resetPulse_acceptBegin s
  generalize nextAnswer 0x10 s = v at hid hchecked ⊢
  have hmismatch : idMatches v = false := beq_eq_false_iff_ne.mpr hid
  rw [exec_begin hidle hquiet, beginProgram_of_mismatch (by rw [hchecked]; exact hmismatch), hchecked, failPart,
    complete_eq]
  simp [setR, setErr, checkedBegin, hmismatch, hidle]

/-- Settles O25: the Standby entry times out, and B14 follows. -/
theorem beginStandbyTimeoutFails : Obligations.BeginStandbyTimeoutFails := by
  intro s hidle hquiet hid hready t ht hout
  rw [exec_begin_of_match hidle hquiet hid, standbyPart,
    enterMode_hw_of_timeout (sameAnswers_checkedBegin 0x24 s) (sameReadings_checkedBegin 0x24 s) hready ht hout,
    timedOutAtOnce_ok, if_neg Bool.false_ne_true, failPart, complete_eq]
  simp [setR, timedOutAtOnce, checkedBegin, modeVal, timeoutCode, hidle]

/-- Settles O23: both mode entries are ready at once. -/
theorem beginConfiguresTheRadio : Obligations.BeginConfiguresTheRadio := by
  intro s hidle hquiet hid hready hready'
  obtain ⟨hexec, hconfigure⟩ := exec_begin_of_ready hidle hquiet hid hready
  rw [hexec, configurePart, hconfigure,
    enterMode_hw_of_ready (sameAnswers_configuredBegin s) (sameReadings_configuredBegin s) hready',
    enteredAtOnce_ok, if_pos rfl, complete_eq]
  simp [setR, setErr, setRstate, enteredAtOnce, configuredBegin, standbyBegin, checkedBegin, configEvents, modeVal,
    hidle]

/-- Settles O26: Standby is ready at once, the Sleep entry times out. -/
theorem beginSleepTimeoutFails : Obligations.BeginSleepTimeoutFails := by
  intro s hidle hquiet hid hready hready' t ht hout
  obtain ⟨hexec, hconfigure⟩ := exec_begin_of_ready hidle hquiet hid hready
  rw [hexec, configurePart, hconfigure,
    enterMode_hw_of_timeout (sameAnswers_configuredBegin s) (sameReadings_configuredBegin s) hready' ht hout,
    timedOutAtOnce_ok, if_neg Bool.false_ne_true, failPart, complete_eq]
  simp [setR, timedOutAtOnce, enteredAtOnce, configuredBegin, standbyBegin, checkedBegin, configEvents, modeVal,
    timeoutCode, hidle]

end Sys2Proof.Machine

namespace Sys2Proof.Machine

open Sys2Proof.Safety

/-! ### How many instants an operation has left (42 R168, 41 R140; log 2)

A measure that every action of the sequencer lowers, from every position of every step: the instants left inside the
step, and those of the steps after it. -/

theorem subIndex_item (k : Nat) : subIndex (.item k) = k := rfl

/-- A transaction that has yet to assert CS takes one instant more (log 13). -/
def csLeft (s : State) : Nat := if s.pinCs then 1 else 0

/-- Instants left in a step that makes `n` writes. -/
def writesLeft (n : Nat) (s : State) : Nat := 2 * (n - subIndex s.sub) + csLeft s + 1

/-- Instants left in a step that enters a mode: three for each round of the poll (42 R161), of which the law of 60 R236
allows TIMEOUT_US. -/
def entryLeft (cfg : Config) (s : State) : Nat :=
  match s.sub with
  | .pollStart => 3 * cfg.timeoutUs + 1
  | .pollRead => csLeft s + 2 + 3 * (cfg.timeoutUs - (s.pollK + 1))
  | .pollTest => 1 + 3 * (cfg.timeoutUs - (s.pollK + 1))
  | _ => csLeft s + 2 + 3 * cfg.timeoutUs

/-- Instants left in the symbol loop: 334 for each repetition to come (41 R130). -/
def loopLeft (cfg : Config) (s : State) : Nat :=
  334 * (cfg.reps - (s.rep.val + 1)) +
    match s.sub with
    | .symHold => 2 * (166 - s.idx.val) + 1
    | .gapPin => 2
    | .gapHold => 1
    | _ => 2 * (166 - s.idx.val) + 2

/-- Instants left inside the step `st`. -/
def stepLeft (cfg : Config) (st : Step) (s : State) : Nat :=
  match st with
  | .b2 => 3 - min 2 (subIndex s.sub)
  | .b4 => csLeft s + 1
  | .b6 | .b12 | .s5 | .s7 => entryLeft cfg s
  | .b7 | .b8 | .b9 | .b10 | .b11 => writesLeft (writesAt cfg (some st)).length s
  | .s6 => loopLeft cfg s
  | _ => 1

/-- Instants of the whole step `st`, at most. -/
def stepMax (cfg : Config) : Step → Nat
  | .b2 => 3
  | .b4 => 2
  | .b6 | .b12 | .s5 | .s7 => 3 * cfg.timeoutUs + 3
  | .b7 | .b11 => 4
  | .b8 => 8
  | .b9 => 6
  | .b10 => 2 * cfg.paWrites.length + 2
  | .s6 => 334 * cfg.reps
  | _ => 1

/-- Instants of the steps after `st`, at most. -/
def afterStep (cfg : Config) : Step → Nat
  | .b14 | .s9 | .t1 => 0
  | .b13 | .s8 => 1
  | .b12 | .s7 => 2
  | .b11 | .s6 => 3 * cfg.timeoutUs + 5
  | .b10 => 3 * cfg.timeoutUs + 9
  | .b9 => 3 * cfg.timeoutUs + 2 * cfg.paWrites.length + 11
  | .b8 => 3 * cfg.timeoutUs + 2 * cfg.paWrites.length + 17
  | .b7 => 3 * cfg.timeoutUs + 2 * cfg.paWrites.length + 25
  | .b6 => 3 * cfg.timeoutUs + 2 * cfg.paWrites.length + 29
  | .b5 => 6 * cfg.timeoutUs + 2 * cfg.paWrites.length + 32
  | .b4 => 6 * cfg.timeoutUs + 2 * cfg.paWrites.length + 33
  | .b3 => 6 * cfg.timeoutUs + 2 * cfg.paWrites.length + 35
  | .b2 => 6 * cfg.timeoutUs + 2 * cfg.paWrites.length + 36
  | .b1 => 6 * cfg.timeoutUs + 2 * cfg.paWrites.length + 39
  | .s5 => 3 * cfg.timeoutUs + 334 * cfg.reps + 5
  | .s4 => 6 * cfg.timeoutUs + 334 * cfg.reps + 8
  | .s3 => 6 * cfg.timeoutUs + 334 * cfg.reps + 9
  | .s2 => 6 * cfg.timeoutUs + 334 * cfg.reps + 10
  | .s1 => 6 * cfg.timeoutUs + 334 * cfg.reps + 11

/-- Instants left to the operation whose pc is at `st`, at most. -/
def instantsLeft (cfg : Config) (st : Step) (s : State) : Nat := stepLeft cfg st s + afterStep cfg st

section
variable (cfg : Config) (s : State)

theorem csLeft_le : csLeft s ≤ 1 := by
  unfold csLeft
  split <;> omega

theorem csLeft_of_high {s : State} (h : s.pinCs = true) : csLeft s = 1 := if_pos h

theorem csLeft_csAssert : csLeft (csAssert s) = 0 := rfl

theorem writesLeft_le (n : Nat) : writesLeft n s ≤ 2 * n + 2 := by
  have := csLeft_le s
  unfold writesLeft
  omega

theorem entryLeft_pos : 0 < entryLeft cfg s := by
  unfold entryLeft
  split <;> omega

theorem entryLeft_le : entryLeft cfg s ≤ 3 * cfg.timeoutUs + 3 := by
  have := csLeft_le s
  unfold entryLeft
  split <;> omega

theorem entryLeft_of_write {s : State} (h1 : s.sub ≠ .pollStart) (h2 : s.sub ≠ .pollRead) (h3 : s.sub ≠ .pollTest) :
    entryLeft cfg s = csLeft s + 2 + 3 * cfg.timeoutUs := by
  unfold entryLeft
  split
  · contradiction
  · contradiction
  · contradiction
  · rfl

theorem loopLeft_of_symPin {s : State} (h1 : s.sub ≠ .symHold) (h2 : s.sub ≠ .gapPin) (h3 : s.sub ≠ .gapHold) :
    loopLeft cfg s = 334 * (cfg.reps - (s.rep.val + 1)) + (2 * (166 - s.idx.val) + 2) := by
  unfold loopLeft
  split
  · contradiction
  · contradiction
  · contradiction
  · rfl

theorem loopLeft_pos : 0 < loopLeft cfg s := by
  unfold loopLeft
  split <;> omega

theorem loopLeft_le {cfg : Config} (hreps : 1 ≤ cfg.reps) : loopLeft cfg s ≤ 334 * cfg.reps := by
  unfold loopLeft
  split <;> omega

theorem stepLeft_pos (st : Step) : 0 < stepLeft cfg st s := by
  cases st
  case b2 => show 0 < 3 - min 2 (subIndex s.sub); omega
  case b6 | b12 | s5 | s7 => exact entryLeft_pos cfg s
  case s6 => exact loopLeft_pos cfg s
  all_goals exact Nat.succ_pos _

theorem stepLeft_le {cfg : Config} (hc : configWf cfg = true) (st : Step) : stepLeft cfg st s ≤ stepMax cfg st := by
  obtain ⟨-, -, hreps, -⟩ := configWf_bounds hc
  cases st
  case b2 => exact Nat.sub_le _ _
  case b4 => exact Nat.succ_le_succ (csLeft_le s)
  case b6 | b12 | s5 | s7 => exact entryLeft_le cfg s
  case b7 | b8 | b9 | b10 | b11 => exact writesLeft_le s _
  case s6 => exact loopLeft_le s hreps
  all_goals exact le_rfl

theorem afterStep_lt_instantsLeft (st : Step) : afterStep cfg st + 1 ≤ instantsLeft cfg st s := by
  have := stepLeft_pos cfg s st
  unfold instantsLeft
  omega

/-- An operation has no more instants left than it is given (42 R168). -/
theorem instantsLeft_le {cfg : Config} (hc : configWf cfg = true) (st : Step) :
    instantsLeft cfg st s ≤ opInstants cfg := by
  have hstep := stepLeft_le s hc st
  have hwhole : stepMax cfg st + afterStep cfg st ≤ opInstants cfg := by
    cases st <;> simp only [stepMax, afterStep, opInstants] <;> omega
  unfold instantsLeft
  omega

end

/-! ### An action of the sequencer ends the operation or goes on with it (43 R195, 70 R251) -/

/-- The event neither completes an operation nor aborts it. -/
def GoesOn (e : Event) : Prop := e ≠ .reset ∧ isDone e = false

/-- The operation `o`, in progress since the trace was `tr`, with neither a Done nor a Reset since. -/
structure Since (o : Op) (tr : List Event) (s : State) : Prop where
  busy : s.busy = true
  op : s.op = o
  trace : ∃ es, s.trace = tr ++ es ∧ ∀ e ∈ es, GoesOn e

/-- The operation `o`, in progress since the trace was `tr`, has ended with its one Done or with a Reset. -/
structure EndedOnce (o : Op) (tr : List Event) (s : State) : Prop where
  trace : ∃ es e, s.trace = tr ++ es ++ [e] ∧ (e = .reset ∨ ∃ b, e = .done o b) ∧ ∀ e ∈ es, GoesOn e
  busy : s.busy = false
  op : s.op = .none
  step : s.step = none

/-- The operation has ended, or it goes on at one of its labels with less than `n` instants left. -/
def Advances (cfg : Config) (o : Op) (tr : List Event) (n : Nat) (t : State) : Prop :=
  EndedOnce o tr t ∨ Since o tr t ∧ ∃ st, t.step = some st ∧ opOf st = o ∧ instantsLeft cfg st t < n

section
variable {cfg : Config} {o : Op} {tr : List Event} {s t : State} {n : Nat}

theorem Advances.mono {m : Nat} (h : Advances cfg o tr m t) (hmn : m ≤ n) : Advances cfg o tr n t :=
  h.imp_right fun ⟨hsince, st, hs, hop, hleft⟩ => ⟨hsince, st, hs, hop, hleft.trans_le hmn⟩

theorem Since.silent (h : Since o tr s) (hbusy : t.busy = s.busy) (hop : t.op = s.op) (htrace : t.trace = s.trace) :
    Since o tr t :=
  ⟨hbusy.trans h.busy, hop.trans h.op, htrace ▸ h.trace⟩

theorem Since.event (h : Since o tr s) {e : Event} (hbusy : t.busy = s.busy) (hop : t.op = s.op)
    (htrace : t.trace = s.trace ++ [e]) (he : GoesOn e) : Since o tr t := by
  obtain ⟨es, hs, hes⟩ := h.trace
  refine ⟨hbusy.trans h.busy, hop.trans h.op, es ++ [e], by rw [htrace, hs, List.append_assoc], ?_⟩
  rw [List.forall_mem_append, List.forall_mem_singleton]
  exact ⟨hes, he⟩

theorem Since.hold (h : Since o tr s) (us : Nat) : Since o tr (hold us s) :=
  h.event rfl rfl (hold_trace us s) ⟨nofun, rfl⟩

theorem Since.pinWriteData (h : Since o tr s) (l : Bool) : Since o tr (pinWrite .data l s) :=
  h.event rfl rfl (pinWriteData_trace l s) ⟨nofun, rfl⟩

theorem Since.pinWriteReset (h : Since o tr s) (l : Bool) : Since o tr (pinWrite .reset l s) :=
  h.event rfl rfl (pinWriteReset_trace l s) ⟨nofun, rfl⟩

theorem Since.readTransfer (h : Since o tr s) (a : RegAddr) : Since o tr (readTransfer a s) :=
  h.event (readTransfer_busy a s) (readTransfer_op a s) (readTransfer_trace a s) ⟨nofun, rfl⟩

theorem Since.writeTransfer (h : Since o tr s) (cfg : Config) (a : RegAddr) (v : Byte) :
    Since o tr (writeTransfer cfg a v s) :=
  h.event rfl rfl (writeTransfer_trace cfg a v s) ⟨nofun, rfl⟩

theorem Since.pollBegin (h : Since o tr s) (m : Mode) : Since o tr (pollBegin m s) :=
  h.event (pollBegin_busy m s) (pollBegin_op m s) (pollBegin_trace m s) ⟨nofun, rfl⟩

theorem Since.pollNow (h : Since o tr s) (cfg : Config) : Since o tr (pollNow cfg s) :=
  h.event (pollNow_busy cfg s) (pollNow_op cfg s) (pollNow_trace cfg s) ⟨nofun, rfl⟩

theorem Since.pollOk (h : Since o tr s) : Since o tr (pollOk s) := h.silent rfl rfl rfl

theorem Since.pollFail (h : Since o tr s) (m : Mode) : Since o tr (pollFail m s) := h.silent rfl rfl rfl

theorem Since.setErr (h : Since o tr s) (e : ErrCode) : Since o tr (setErr e s) := h.silent rfl rfl rfl

theorem Since.setR (h : Since o tr s) (b : Bool) : Since o tr (setR b s) := h.silent rfl rfl rfl

theorem Since.setRstate (h : Since o tr s) (x : Readiness) : Since o tr (setRstate x s) := h.silent rfl rfl rfl

theorem Since.setFbuf (h : Since o tr s) (f : Frame) : Since o tr (setFbuf f s) := h.silent rfl rfl rfl

theorem Since.setRep (h : Since o tr s) (k : Fin 8) : Since o tr (setRep k s) := h.silent rfl rfl rfl

theorem Since.setIdx (h : Since o tr s) (i : Fin 166) : Since o tr (setIdx i s) := h.silent rfl rfl rfl

theorem Since.goto (h : Since o tr s) {st : Step} {u : Sub} (hop : opOf st = o)
    (hleft : instantsLeft cfg st (goto st u s) < n) : Advances cfg o tr n (goto st u s) :=
  .inr ⟨h.silent rfl rfl rfl, st, rfl, hop, hleft⟩

theorem Since.complete (h : Since o tr s) (r : Bool) : Advances cfg o tr n (complete r s) := by
  obtain ⟨es, hs, hes⟩ := h.trace
  refine .inl ⟨⟨es, .done o r, ?_, .inr ⟨r, rfl⟩, hes⟩, rfl, rfl, rfl⟩
  rw [complete_trace, hs, h.op]

theorem Since.applyReset (h : Since o tr s) : EndedOnce o tr (applyReset s) := by
  obtain ⟨es, hs, hes⟩ := h.trace
  refine ⟨⟨es, .reset, ?_, .inl rfl, hes⟩, rfl, rfl, rfl⟩
  rw [applyReset_trace, hs]

/-- A transaction asserts CS, which is one instant less, or makes its transfer. -/
theorem Since.busInstant (h : Since o tr s) {st : Step} (hs : s.step = some st) (hop : opOf st = o)
    (hcs : s.pinCs = true → instantsLeft cfg st (csAssert s) < n) {transfer : State → State}
    (ht : Advances cfg o tr n (transfer s)) : Advances cfg o tr n (busInstant transfer s) := by
  unfold Machine.busInstant
  split
  next hhigh => exact .inr ⟨h.silent rfl rfl rfl, st, hs, hop, hcs hhigh⟩
  next => exact ht

/-- A step that makes the writes of a configuration step. -/
theorem Since.writesInstant (h : Since o tr s) {st : Step} (hs : s.step = some st) (hop : opOf st = o)
    (hst : ∀ s, stepLeft cfg st s = writesLeft (writesAt cfg (some st)).length s) {next : State → State}
    (hnext : ∀ t, Since o tr t → Advances cfg o tr (afterStep cfg st + 1) (next t)) :
    Advances cfg o tr (instantsLeft cfg st s) (writesInstant cfg (writesAt cfg (some st)) st next s) := by
  have hend := afterStep_lt_instantsLeft cfg s st
  unfold Machine.writesInstant
  split
  next a v hget =>
    obtain ⟨hlt, -⟩ := List.getElem?_eq_some_iff.mp hget
    have hwritten := h.writeTransfer cfg a v
    refine h.busInstant hs hop (fun hhigh => ?_) ?_
    · simp only [instantsLeft, hst, writesLeft, csLeft_csAssert, csLeft_of_high hhigh, csAssert_sub]
      omega
    · split
      · refine hwritten.goto hop ?_
        simp only [instantsLeft, hst, writesLeft, goto_sub]
        have := csLeft_le (Machine.goto st (.item (subIndex s.sub + 1)) (Machine.writeTransfer cfg a v s))
        simp only [subIndex] at *
        omega
      · exact (hnext _ hwritten).mono hend
  next => exact (hnext s h).mono hend

/-- A step that enters a mode: the time test of the last round the law allows ends the poll (42 R168). -/
theorem Since.enterModeInstant (hc : configWf cfg = true) (h : Since o tr s) {st : Step} (hs : s.step = some st)
    (hop : opOf st = o) (hst : ∀ s, stepLeft cfg st s = entryLeft cfg s) {m : Mode} {yes no : State → State}
    (hyes : ∀ t, Since o tr t → Advances cfg o tr (afterStep cfg st + 1) (yes t))
    (hno : ∀ t, Since o tr t → Advances cfg o tr (afterStep cfg st + 1) (no t)) :
    Advances cfg o tr (instantsLeft cfg st s) (enterModeInstant cfg m st yes no s) := by
  obtain ⟨hT0, hT, -, -⟩ := configWf_bounds hc
  have hend := afterStep_lt_instantsLeft cfg s st
  unfold Machine.enterModeInstant
  split
  next hsub =>
    refine (h.pollBegin m).goto hop ?_
    have := csLeft_le (Machine.goto st .pollRead (Machine.pollBegin m s))
    simp only [instantsLeft, hst, entryLeft, hsub, goto_sub, goto_pollK, pollBegin_pollK]
    omega
  next hsub =>
    have hread := h.readTransfer cfg.regStatus
    refine h.busInstant hs hop (fun hhigh => ?_) ?_
    · simp only [instantsLeft, hst, entryLeft, csAssert_sub, hsub, csLeft_csAssert, csLeft_of_high hhigh,
        csAssert_pollK]
      omega
    · dsimp only
      split
      · exact (hyes _ hread.pollOk).mono hend
      · refine hread.goto hop ?_
        simp only [instantsLeft, hst, entryLeft, hsub, goto_sub, goto_pollK, readTransfer_pollK]
        omega
  next hsub =>
    have htested := h.pollNow cfg
    split
    next => exact (hno _ (htested.pollFail m)).mono hend
    next hin =>
      have hround : s.pollK + 1 < cfg.timeoutUs := by
        by_contra hlast
        exact hin (timedOut_testReading hT (by omega))
      refine htested.goto hop ?_
      have := csLeft_le (Machine.goto st .pollRead (Machine.pollNow cfg s))
      simp only [instantsLeft, hst, entryLeft, hsub, goto_sub, goto_pollK, pollNow_pollK]
      omega
  next hstart hread htest =>
    have hleft : entryLeft cfg s = csLeft s + 2 + 3 * cfg.timeoutUs := entryLeft_of_write cfg hstart hread htest
    refine h.busInstant hs hop (fun hhigh => ?_) ?_
    · have hleft' : entryLeft cfg (csAssert s) = csLeft (csAssert s) + 2 + 3 * cfg.timeoutUs :=
        entryLeft_of_write cfg (s := csAssert s) hstart hread htest
      simp only [instantsLeft, hst, hleft, hleft', csLeft_csAssert, csLeft_of_high hhigh]
      omega
    · refine (h.writeTransfer cfg cfg.regOpmode (modeVal m)).goto hop ?_
      simp only [instantsLeft, hst, hleft]
      simp only [entryLeft, goto_sub]
      omega

/-- From the step `st` to a step whose instants are counted after it. -/
theorem Since.next (h : Since o tr s) (hc : configWf cfg = true) (st st' : Step) (u : Sub) (hop : opOf st' = o)
    (hle : stepMax cfg st' + afterStep cfg st' ≤ afterStep cfg st := by simp only [stepMax, afterStep] <;> omega) :
    Advances cfg o tr (afterStep cfg st + 1) (Machine.goto st' u s) := by
  have := stepLeft_le (Machine.goto st' u s) hc st'
  refine h.goto hop ?_
  unfold instantsLeft
  omega

/-! ### The steps, one by one -/

theorem Since.beginFails (h : Since .begin tr s) (hc : configWf cfg = true) (st : Step) (hst : 1 ≤ afterStep cfg st) :
    Advances cfg .begin tr (afterStep cfg st + 1) (beginFails s) :=
  (h.setR false).next hc st .b14 (.item 0) rfl hst

theorem Since.stepB2 (h : Since .begin tr s) (hc : configWf cfg = true) :
    Advances cfg .begin tr (instantsLeft cfg .b2 s) (stepB2 cfg s) := by
  have hend := afterStep_lt_instantsLeft cfg s .b2
  unfold Machine.stepB2
  split
  next hsub =>
    refine (h.pinWriteReset true).goto rfl ?_
    simp only [instantsLeft, stepLeft, hsub, goto_sub, subIndex_item]
    omega
  next hsub =>
    refine (h.hold cfg.tRstPulseUs).goto rfl ?_
    simp only [instantsLeft, stepLeft, hsub, goto_sub, subIndex_item]
    omega
  next => exact ((h.pinWriteReset false).next hc .b2 .b3 (.item 0) rfl).mono hend

theorem Since.stepB4 (h : Since .begin tr s) (hc : configWf cfg = true) (hs : s.step = some .b4) :
    Advances cfg .begin tr (instantsLeft cfg .b4 s) (stepB4 cfg s) := by
  have hend := afterStep_lt_instantsLeft cfg s .b4
  have hchecked : Since .begin tr (recordId (Machine.readTransfer cfg.regVersion s)) :=
    (h.readTransfer cfg.regVersion).silent rfl rfl rfl
  refine h.busInstant hs rfl (fun hhigh => ?_) ((hchecked.next hc .b4 .b5 (.item 0) rfl).mono hend)
  simp only [instantsLeft, stepLeft, csLeft_csAssert, csLeft_of_high hhigh]
  omega

theorem Since.stepB5 (h : Since .begin tr s) (hc : configWf cfg = true) :
    Advances cfg .begin tr (afterStep cfg .b5 + 1) (stepB5 s) := by
  unfold Machine.stepB5
  split
  · exact h.next hc .b5 .b6 .modeWrite rfl
  · exact (h.setErr .idMismatch).beginFails hc .b5 (by simp only [afterStep]; omega)

theorem Since.stepB6 (h : Since .begin tr s) (hc : configWf cfg = true) (hs : s.step = some .b6) :
    Advances cfg .begin tr (instantsLeft cfg .b6 s) (stepB6 cfg s) := by
  unfold Machine.stepB6
  split
  · exact h.enterModeInstant hc hs rfl (fun _ => rfl) (fun t ht => ht.next hc .b6 .b7 (.item 0) rfl)
      fun t ht => ht.beginFails hc .b6 (by simp only [afterStep]; omega)
  · exact (h.next hc .b6 .b7 (.item 0) rfl).mono (afterStep_lt_instantsLeft cfg s .b6)

theorem Since.stepS2 (h : Since .send tr s) (hc : configWf cfg = true) :
    Advances cfg .send tr (afterStep cfg .s2 + 1) (stepS2 s) := by
  unfold Machine.stepS2
  split
  · exact h.next hc .s2 .s3 (.item 0) rfl
  · exact (h.setErr .notReady).next hc .s2 .s9 (.item 0) rfl

theorem Since.stepS3 (h : Since .send tr s) (hc : configWf cfg = true) :
    Advances cfg .send tr (afterStep cfg .s3 + 1) (stepS3 cfg s) := by
  have hlooked : Since .send tr (lookupInto cfg s.cmd s) := h.silent rfl rfl rfl
  unfold Machine.stepS3
  dsimp only
  split
  · exact (hlooked.setErr .unknownCmd).next hc .s3 .s9 (.item 0) rfl
  · exact hlooked.next hc .s3 .s4 (.item 0) rfl

theorem Since.stepS4 (h : Since .send tr s) (hc : configWf cfg = true) :
    Advances cfg .send tr (afterStep cfg .s4 + 1) (stepS4 cfg s) := by
  have hbuilt : Since .send tr (buildInto cfg s.lookup s) := h.silent rfl rfl rfl
  unfold Machine.stepS4
  dsimp only
  split
  next f _ => exact (hbuilt.setFbuf f).next hc .s4 .s5 .modeWrite rfl
  next => exact hbuilt.next hc .s4 .s9 (.item 0) rfl

theorem Since.stepS5 (h : Since .send tr s) (hc : configWf cfg = true) (hs : s.step = some .s5) :
    Advances cfg .send tr (instantsLeft cfg .s5 s) (stepS5 cfg s) :=
  h.enterModeInstant hc hs rfl (fun _ => rfl)
    (fun t ht => ((ht.setRep 0).setIdx 0).next hc .s5 .s6 .symPin rfl)
    fun t ht => ht.next hc .s5 .s9 (.item 0) rfl

/-- Symbols and repetitions are counted down. -/
theorem Since.stepS6 (h : Since .send tr s) (hc : configWf cfg = true) :
    Advances cfg .send tr (instantsLeft cfg .s6 s) (stepS6 cfg s) := by
  obtain ⟨-, -, -, hreps⟩ := configWf_bounds hc
  have hend := afterStep_lt_instantsLeft cfg s .s6
  unfold Machine.stepS6
  split
  next hsub =>
    have hheld := h.hold cfg.symbolUs
    by_cases hl : s.idx.val + 1 < 166
    · rw [nextSymbol_of_lt (s := Machine.hold cfg.symbolUs s) rfl hl]
      refine (hheld.setIdx _).goto rfl ?_
      simp only [instantsLeft, stepLeft, loopLeft, hsub, goto_sub, goto_rep, goto_idx, setIdx_rep, setIdx_idx, hold_rep,
        hold_idx]
      omega
    · rw [nextSymbol_of_last (s := Machine.hold cfg.symbolUs s) rfl hl]
      refine hheld.goto rfl ?_
      simp only [instantsLeft, stepLeft, loopLeft, hsub, goto_sub, goto_rep, hold_rep]
      omega
  next hsub =>
    refine (h.pinWriteData false).goto rfl ?_
    simp only [instantsLeft, stepLeft, loopLeft, hsub, goto_sub, goto_rep, pinWriteData_rep]
    omega
  next hsub =>
    have hheld := h.hold cfg.gapUs
    unfold nextRepetition
    split
    next hlt =>
      rw [hold_rep] at hlt
      have hrep : (Fin.ofNat 8 (s.rep.val + 1)).val = s.rep.val + 1 := Nat.mod_eq_of_lt (by omega)
      refine ((hheld.setRep _).setIdx _).goto rfl ?_
      simp only [instantsLeft, stepLeft, loopLeft, hsub, goto_sub, goto_rep, goto_idx, setIdx_rep, setIdx_idx,
        setRep_rep, hold_rep, hrep]
      omega
    next => exact (hheld.next hc .s6 .s7 .modeWrite rfl).mono hend
  next hhold hgapPin hgapHold =>
    refine (h.pinWriteData _).goto rfl ?_
    simp only [instantsLeft, stepLeft, loopLeft_of_symPin cfg hhold hgapPin hgapHold]
    simp only [loopLeft, goto_sub, goto_rep, goto_idx, pinWriteData_rep, pinWriteData_idx]
    omega

theorem Since.stepS8 (h : Since .send tr s) (hc : configWf cfg = true) :
    Advances cfg .send tr (afterStep cfg .s8 + 1) (stepS8 s) := by
  unfold Machine.stepS8
  split
  · exact (h.setErr .none).next hc .s8 .s9 (.item 0) rfl
  · exact h.next hc .s8 .s9 (.item 0) rfl

/-- Every action of the sequencer, by its pc. -/
theorem Since.sequence (hc : configWf cfg = true) {st : Step} (h : Since (opOf st) tr s) (hs : s.step = some st) :
    Advances cfg (opOf st) tr (instantsLeft cfg st s) (sequence cfg s) := by
  have hend := afterStep_lt_instantsLeft cfg s st
  unfold Machine.sequence
  rw [hs]
  cases st
  case b1 => exact (h.next hc .b1 .b2 (.item 0) rfl).mono hend
  case b2 => exact h.stepB2 hc
  case b3 => exact ((h.hold cfg.tRstWaitUs).next hc .b3 .b4 (.item 0) rfl).mono hend
  case b4 => exact h.stepB4 hc hs
  case b5 => exact (h.stepB5 hc).mono hend
  case b6 => exact h.stepB6 hc hs
  case b7 => exact h.writesInstant hs rfl (fun _ => rfl) fun t ht => ht.next hc .b7 .b8 (.item 0) rfl
  case b8 => exact h.writesInstant hs rfl (fun _ => rfl) fun t ht => ht.next hc .b8 .b9 (.item 0) rfl
  case b9 => exact h.writesInstant hs rfl (fun _ => rfl) fun t ht => ht.next hc .b9 .b10 (.item 0) rfl
  case b10 => exact h.writesInstant hs rfl (fun _ => rfl) fun t ht => ht.next hc .b10 .b11 (.item 0) rfl
  case b11 => exact h.writesInstant hs rfl (fun _ => rfl) fun t ht => ht.next hc .b11 .b12 .modeWrite rfl
  case b12 =>
    exact h.enterModeInstant hc hs rfl (fun _ => rfl) (fun t ht => ht.next hc .b12 .b13 (.item 0) rfl)
      fun t ht => ht.beginFails hc .b12 (by simp only [afterStep]; omega)
  case b13 =>
    exact ((((h.setRstate .ready).setErr .none).setR true).next hc .b13 .b14 (.item 0) rfl).mono hend
  case b14 => exact h.complete s.r
  case s1 => exact (h.next hc .s1 .s2 (.item 0) rfl).mono hend
  case s2 => exact (h.stepS2 hc).mono hend
  case s3 => exact (h.stepS3 hc).mono hend
  case s4 => exact (h.stepS4 hc).mono hend
  case s5 => exact h.stepS5 hc hs
  case s6 => exact h.stepS6 hc
  case s7 =>
    exact h.enterModeInstant hc hs rfl (fun _ => rfl) (fun t ht => ht.next hc .s7 .s8 (.item 0) rfl)
      fun t ht => ht.next hc .s7 .s8 (.item 0) rfl
  case s8 => exact (h.stepS8 hc).mono hend
  case s9 => exact h.complete false
  case t1 => exact h.complete (readyOut s)

/-! ### The run of an operation ends it (43 R195) -/

/-- An instant is the reset input or one action of the sequencer. -/
theorem Since.tick (hc : configWf cfg = true) {st : Step} (h : Since (opOf st) tr s) (hs : s.step = some st) :
    Advances cfg (opOf st) tr (instantsLeft cfg st s) (tick cfg s) := by
  have hpass : Since (opOf st) tr (passInstant s) := h.silent rfl rfl rfl
  rcases tick_cases cfg s with ⟨_, _, htick⟩ | ⟨_, htick⟩
  · exact .inl (htick ▸ hpass.applyReset)
  · exact htick ▸ hpass.sequence hc hs

theorem Since.runOp (hc : configWf cfg = true) (n : Nat) {s : State} {st : Step} (h : Since (opOf st) tr s)
    (hs : s.step = some st) (hn : instantsLeft cfg st s ≤ n) : EndedOnce (opOf st) tr (runOp cfg n s) := by
  induction n generalizing s st with
  | zero =>
    have := afterStep_lt_instantsLeft cfg s st
    omega
  | succ n ih =>
    rw [runOp_busy cfg n h.busy]
    rcases h.tick hc hs with hended | ⟨hsince, st', hs', hop, hleft⟩
    · rw [runOp_idle cfg n hended.busy]
      exact hended
    · rw [← hop] at hsince ⊢
      exact ih hsince hs' (by omega)

end

/-- Settles O60: the measure is within the instants given, and every instant lowers it or ends the operation. -/
theorem everyOperationEndsOnce : Obligations.EveryOperationEndsOnce := by
  intro cfg hc s hinv hbusy
  cases hs : s.step with
  | none =>
    obtain ⟨-, hidle⟩ := (pcLegal_of_no_step hs).mp hinv.pc
    exact absurd (hbusy.symm.trans hidle) (by decide)
  | some st =>
    obtain ⟨-, hop⟩ := (pcLegal_of_step hs).mp hinv.pc
    have hsince : Since (opOf st) s.trace s := ⟨hbusy, hop, [], by simp, by simp⟩
    obtain ⟨⟨es, e, htrace, he, hes⟩, hidle, hnone, hstep⟩ :=
      hsince.runOp hc (opInstants cfg) hs (instantsLeft_le s hc st)
    exact ⟨es, e, htrace, hop ▸ he, hes, hidle, hnone, hstep⟩

end Sys2Proof.Machine

namespace Sys2Proof.Machine

open Sys2Proof.Safety

/-! ### A SEND on a block that is not READY (43 R198, 60 R225) -/

/-- Settles O16: S2 sends every code of a block that is not READY straight to S9, before the catalog is looked at. -/
theorem sendWhenNotReadyIsANoOp : Obligations.SendWhenNotReadyIsANoOp := by
  rintro ⟨i, c⟩ hp s hidle hquiet hr
  have hi : i = sendOfCode c := (mem_allSends_iff i c).mp hp
  obtain ⟨-, hexec⟩ := exec_sendOfCode c
  simp only [hi, hexec, ← sendWord_eq_add]
  rw [send_of_notReady c hidle hquiet hr]
  simp [complete_eq, setErr, acceptSend, setCmd, accept_eq, hidle]

/-! ### No traps (60 R220) -/

/-- Each row of the opcode table has an arm that answers, whatever the state. -/
theorem exec_answers (i : Instr) (s : State) : ∃ t, exec i s = .next t := by
  cases i <;> exact ⟨_, rfl⟩

/-- A legal pc has a step to carry out while busy (10 R23), so the model's one fault (log 19) is out of reach. -/
theorem step_answers_of_pcLegal {s : State} (hpc : pcLegal s = true) : ∃ t, step s = .next t := by
  cases hi : s.issue with
  | some f => rw [step_of_frame hi]; exact exec_answers _ _
  | none =>
    cases hb : s.busy
    case false =>
      rcases step_of_idle hi hb with hpass | ⟨_, _, hreset⟩ | ⟨_, _, _, _, _, _, haccept⟩
      · exact ⟨_, hpass⟩
      · exact ⟨_, hreset⟩
      · exact ⟨_, haccept⟩
    case true =>
      have hstep : s.step.isSome = true := Option.isSome_iff_ne_none.mpr fun hs => by
        obtain ⟨-, hidle⟩ := (pcLegal_of_no_step hs).mp hpc
        exact absurd (hb.symm.trans hidle) (by decide)
      exact ⟨_, (step_of_busy hi hb).trans (if_pos hstep)⟩

/-- Settles O56: of the invariant only the legal pc is needed. -/
theorem nothingTraps : Obligations.NothingTraps :=
  ⟨exec_answers, fun _ hinv => step_answers_of_pcLegal hinv.pc⟩

end Sys2Proof.Machine

namespace Sys2Proof.Safety

open Sys2Proof.Machine

/-! ### Where a trace and a pc stand with the write-then-poll discipline (20 R73, 70 R260) -/

theorem pollOf_concat (cfg : Config) (es : List Event) (e : Event) :
    pollOf cfg (es ++ [e]) = pollEvent cfg (pollOf cfg es) e := by
  simp [pollOf]

section
variable {cfg : Config} {s t : State} {st : Step} {u : Sub}

theorem pollDue_of_not_entering (h : entering cfg s.step = none) : pollDue cfg s = .free := by
  simp [pollDue, h]

theorem pollDue_of_not_polling (h : ¬ Polling s.sub) : pollDue cfg s = .free := by
  unfold pollDue
  split
  next hsub => exact absurd (.inl hsub) h
  next hsub => exact absurd (.inr (.inl hsub)) h
  next hsub => exact absurd (.inr (.inr hsub)) h
  next => rfl

/-- Once a mode entry has written REG_OPMODE, the reading of `t0` is due (42 R161). -/
theorem pollDue_pollStart {m : Mode} (hent : entering cfg s.step = some m) (hsub : s.sub = .pollStart) :
    pollDue cfg s = .written := by
  simp [pollDue, hent, hsub]

/-- Between that reading and the end of the poll, its reads and time tests are due (42 R161). -/
theorem pollDue_polling {m : Mode} (hent : entering cfg s.step = some m)
    (hsub : s.sub = .pollRead ∨ s.sub = .pollTest) : pollDue cfg s = .polling s.t0 := by
  rcases hsub with hsub | hsub <;> simp [pollDue, hent, hsub]

/-- The pc never stands at a broken discipline. -/
theorem pollDue_ne_broken (cfg : Config) (s : State) : pollDue cfg s ≠ .broken := by
  unfold pollDue
  split <;> nofun

/-- Reset ends a poll (70 R251). -/
theorem pollEvent_reset (cfg : Config) {p : Poll} (hp : p ≠ .broken) : pollEvent cfg p .reset = .free := by
  cases p
  case broken => exact absurd rfl hp
  all_goals rfl

/-- A status read with bit 7 = 1 ends a poll, another leaves it running (42 R161). -/
theorem pollEvent_statusRead (cfg : Config) (t0 : Time) (v : Byte) :
    pollEvent cfg (.polling t0) (.busR cfg.regStatus v) = if modeReady v then .free else .polling t0 := if_pos rfl

/-- A reading past the timeout ends a poll, another leaves it running (42 R161). -/
theorem pollEvent_timeTest (cfg : Config) (t0 t : Time) :
    pollEvent cfg (.polling t0) (.time t) = if timedOut cfg t0 t then .free else .polling t0 := rfl

/-- Only a write of REG_OPMODE owes a poll. -/
theorem pollEvent_configWrite {a : RegAddr} (ha : a ≠ cfg.regOpmode) (v : Byte) :
    pollEvent cfg .free (.busW a v) = .free := if_neg ha

theorem pollEvent_modeWrite (cfg : Config) (v : Byte) : pollEvent cfg .free (.busW cfg.regOpmode v) = .written :=
  if_pos rfl

/-! ### No poll is owed -/

/-- The trace keeps the discipline and owes no poll. -/
def NoPollOwed (cfg : Config) (s : State) : Prop := pollOf cfg s.trace = .free

theorem NoPollOwed.silent (h : NoPollOwed cfg s) (ht : t.trace = s.trace) : NoPollOwed cfg t := by
  rwa [NoPollOwed, ht]

theorem NoPollOwed.event (h : NoPollOwed cfg s) {e : Event} (ht : t.trace = s.trace ++ [e])
    (he : pollEvent cfg .free e = .free) : NoPollOwed cfg t := by
  rw [NoPollOwed, ht, pollOf_concat, h, he]

/-- Where no poll is owed the pc may move to any position but those of a poll. -/
theorem NoPollOwed.goto (h : NoPollOwed cfg s) (st : Step) (u : Sub) (hu : ¬ Polling u := by simp [Polling]) :
    Disciplined cfg (goto st u s) :=
  h.trans (pollDue_of_not_polling hu).symm

theorem NoPollOwed.complete (h : NoPollOwed cfg s) (r : Bool) : Disciplined cfg (complete r s) :=
  h.event (complete_trace r s) rfl

theorem NoPollOwed.beginFails (h : NoPollOwed cfg s) : Disciplined cfg (beginFails s) :=
  (h.silent (setR_trace false s)).goto .b14 (.item 0)

/-! ### The discipline at the parts of a step -/

/-- At a step that enters no mode the discipline says that no poll is owed. -/
theorem Disciplined.noPollOwed (h : Disciplined cfg s) (hs : s.step = some st)
    (hent : entering cfg (some st) = none := by rfl) : NoPollOwed cfg s :=
  h.trans (pollDue_of_not_entering (hs ▸ hent))

theorem Disciplined.congr (h : Disciplined cfg s) (htrace : t.trace = s.trace) (hstep : t.step = s.step)
    (hsub : t.sub = s.sub) (ht0 : t.t0 = s.t0) : Disciplined cfg t := by
  rw [Disciplined, pollDue, htrace, hstep, hsub, ht0]
  exact h

/-- Asserting CS appends no event and moves no pc. -/
theorem Disciplined.busInstant (h : Disciplined cfg s) {transfer : State → State}
    (ht : Disciplined cfg (transfer s)) : Disciplined cfg (busInstant transfer s) := by
  unfold Machine.busInstant
  split
  · exact h.congr rfl rfl rfl rfl
  · exact ht

/-- The writes of a configuration step go to other registers than REG_OPMODE, so none of them owes a poll. -/
theorem Disciplined.writesInstant (h : Disciplined cfg s) (hs : s.step = some st) (hown : ownOpmode cfg = true)
    (hent : entering cfg (some st) = none) {next : State → State}
    (hnext : ∀ t, NoPollOwed cfg t → Disciplined cfg (next t)) :
    Disciplined cfg (writesInstant cfg (writesAt cfg (some st)) st next s) := by
  have hfree := h.noPollOwed hs hent
  unfold Machine.writesInstant
  split
  next a v hget =>
    have hmem : (a, v) ∈ configWrites cfg := writesAt_mem_configWrites (List.mem_of_getElem? hget)
    have hwritten : NoPollOwed cfg (writeTransfer cfg a v s) :=
      hfree.event (writeTransfer_trace cfg a v s) (pollEvent_configWrite (ownOpmode_ne hown hmem) v)
    refine h.busInstant ?_
    split
    · exact hwritten.goto st (.item _)
    · exact hnext _ hwritten
  next => exact hnext s hfree

/-- A mode entry makes its write where no poll is owed, then the events of its poll alone, and goes on where the poll
has ended (42 R160, R161). -/
theorem Disciplined.enterModeInstant (h : Disciplined cfg s) (hs : s.step = some st) {m : Mode}
    (hent : entering cfg (some st) = some m) {yes no : State → State}
    (hyes : ∀ t, NoPollOwed cfg t → Disciplined cfg (yes t))
    (hno : ∀ t, NoPollOwed cfg t → Disciplined cfg (no t)) :
    Disciplined cfg (enterModeInstant cfg m st yes no s) := by
  have hents : entering cfg s.step = some m := hs ▸ hent
  unfold Machine.enterModeInstant
  split
  next hsub =>
    have hwritten : pollOf cfg s.trace = .written := h.trans (pollDue_pollStart hents hsub)
    rw [Disciplined, pollDue_polling hent (.inl rfl), goto_trace, pollBegin_trace, pollOf_concat, hwritten, goto_t0,
      pollBegin_t0]
    rfl
  next hsub =>
    have hpolling : pollOf cfg s.trace = .polling s.t0 := h.trans (pollDue_polling hents (.inl hsub))
    have hread : pollOf cfg (readTransfer cfg.regStatus s).trace =
        if modeReady (readTransfer cfg.regStatus s).rdata then .free else .polling s.t0 := by
      rw [readTransfer_trace, readTransfer_rdata, pollOf_concat, hpolling, pollEvent_statusRead]
    refine h.busInstant ?_
    dsimp only
    split
    next hready => exact hyes _ (hread.trans (if_pos hready))
    next hnot =>
      rw [Disciplined, pollDue_polling hent (.inr rfl), goto_trace, hread, if_neg hnot, goto_t0, readTransfer_t0]
  next hsub =>
    have hpolling : pollOf cfg s.trace = .polling s.t0 := h.trans (pollDue_polling hents (.inr hsub))
    have htest : pollOf cfg (pollNow cfg s).trace =
        if timedOut cfg s.t0 (testReading cfg s) then .free else .polling s.t0 := by
      rw [pollNow_trace, pollOf_concat, hpolling, pollEvent_timeTest]
    split
    next hout => exact hno _ (htest.trans (if_pos hout))
    next hin => rw [Disciplined, pollDue_polling hent (.inl rfl), goto_trace, htest, if_neg hin, goto_t0, pollNow_t0]
  next hstart hread htest =>
    have hfree : pollOf cfg s.trace = .free :=
      h.trans (pollDue_of_not_polling (by rintro (hsub | hsub | hsub) <;> contradiction))
    refine h.busInstant ?_
    rw [Disciplined, pollDue_pollStart hent rfl, goto_trace, writeTransfer_trace, pollOf_concat, hfree,
      pollEvent_modeWrite]

/-! ### The discipline at the steps with branches -/

theorem NoPollOwed.stepB2 (h : NoPollOwed cfg s) : Disciplined cfg (stepB2 cfg s) := by
  unfold Machine.stepB2
  split
  · exact (h.event (pinWriteReset_trace true s) rfl).goto .b2 (.item 1)
  · exact (h.event (hold_trace cfg.tRstPulseUs s) rfl).goto .b2 (.item 2)
  · exact (h.event (pinWriteReset_trace false s) rfl).goto .b3 (.item 0)

theorem NoPollOwed.stepB5 (h : NoPollOwed cfg s) : Disciplined cfg (stepB5 s) := by
  unfold Machine.stepB5
  split
  · exact h.goto .b6 .modeWrite
  · exact (h.silent (setErr_trace _ s)).beginFails

theorem Disciplined.stepB6 (h : Disciplined cfg s) (hs : s.step = some .b6) : Disciplined cfg (stepB6 cfg s) := by
  unfold Machine.stepB6
  split
  next hsb =>
    exact h.enterModeInstant hs (if_pos hsb) (fun _ ht => ht.goto .b7 (.item 0)) fun _ ht => ht.beginFails
  next hsb => exact (h.noPollOwed hs (if_neg hsb)).goto .b7 (.item 0)

theorem NoPollOwed.stepS2 (h : NoPollOwed cfg s) : Disciplined cfg (stepS2 s) := by
  unfold Machine.stepS2
  split
  · exact h.goto .s3 (.item 0)
  · exact (h.silent (setErr_trace _ s)).goto .s9 (.item 0)

theorem NoPollOwed.stepS3 (h : NoPollOwed cfg s) : Disciplined cfg (stepS3 cfg s) := by
  have hlooked : NoPollOwed cfg (lookupInto cfg s.cmd s) := h.silent (lookupInto_trace cfg s.cmd s)
  unfold Machine.stepS3
  dsimp only
  split
  · exact (hlooked.silent (setErr_trace _ _)).goto .s9 (.item 0)
  · exact hlooked.goto .s4 (.item 0)

theorem NoPollOwed.stepS4 (h : NoPollOwed cfg s) : Disciplined cfg (stepS4 cfg s) := by
  have hbuilt : NoPollOwed cfg (buildInto cfg s.lookup s) := h.silent (buildInto_trace cfg s.lookup s)
  unfold Machine.stepS4
  dsimp only
  split
  · exact (hbuilt.silent (setFbuf_trace _ _)).goto .s5 .modeWrite
  · exact hbuilt.goto .s9 (.item 0)

theorem NoPollOwed.nextSymbol (h : NoPollOwed cfg s) : Disciplined cfg (nextSymbol s) := by
  unfold Machine.nextSymbol
  split
  · exact (h.silent (setIdx_trace _ s)).goto .s6 .symPin
  · exact h.goto .s6 .gapPin

theorem NoPollOwed.nextRepetition (h : NoPollOwed cfg s) : Disciplined cfg (nextRepetition cfg s) := by
  unfold Machine.nextRepetition
  split
  · exact (h.silent (by rw [setIdx_trace, setRep_trace])).goto .s6 .symPin
  · exact h.goto .s7 .modeWrite

theorem NoPollOwed.stepS6 (h : NoPollOwed cfg s) : Disciplined cfg (stepS6 cfg s) := by
  unfold Machine.stepS6
  split
  · exact (h.event (hold_trace cfg.symbolUs s) rfl).nextSymbol
  · exact (h.event (pinWriteData_trace false s) rfl).goto .s6 .gapHold
  · exact (h.event (hold_trace cfg.gapUs s) rfl).nextRepetition
  · exact (h.event (pinWriteData_trace _ s) rfl).goto .s6 .symHold

theorem NoPollOwed.stepS8 (h : NoPollOwed cfg s) : Disciplined cfg (stepS8 s) := by
  unfold Machine.stepS8
  split
  · exact (h.silent (setErr_trace _ s)).goto .s9 (.item 0)
  · exact h.goto .s9 (.item 0)

/-! ### The discipline at every instant -/

/-- Every action of the sequencer keeps the discipline, by its pc. -/
theorem Disciplined.sequence (hown : ownOpmode cfg = true) (h : Disciplined cfg s) :
    Disciplined cfg (sequence cfg s) := by
  unfold Machine.sequence
  rcases hs : s.step with _ | st
  · exact h
  cases st
  case b1 => exact (h.noPollOwed hs).goto .b2 (.item 0)
  case b2 => exact (h.noPollOwed hs).stepB2
  case b3 => exact ((h.noPollOwed hs).event (hold_trace cfg.tRstWaitUs s) rfl).goto .b4 (.item 0)
  case b4 =>
    have hread := (h.noPollOwed hs).event (readTransfer_trace cfg.regVersion s) rfl
    exact h.busInstant ((hread.silent (recordId_trace _)).goto .b5 (.item 0))
  case b5 => exact (h.noPollOwed hs).stepB5
  case b6 => exact h.stepB6 hs
  case b7 => exact h.writesInstant hs hown rfl fun _ ht => ht.goto .b8 (.item 0)
  case b8 => exact h.writesInstant hs hown rfl fun _ ht => ht.goto .b9 (.item 0)
  case b9 => exact h.writesInstant hs hown rfl fun _ ht => ht.goto .b10 (.item 0)
  case b10 => exact h.writesInstant hs hown rfl fun _ ht => ht.goto .b11 (.item 0)
  case b11 => exact h.writesInstant hs hown rfl fun _ ht => ht.goto .b12 .modeWrite
  case b12 => exact h.enterModeInstant hs rfl (fun _ ht => ht.goto .b13 (.item 0)) fun _ ht => ht.beginFails
  case b13 =>
    have hready := (h.noPollOwed hs).silent (t := setR true (setErr .none (setRstate .ready s))) rfl
    exact hready.goto .b14 (.item 0)
  case b14 => exact (h.noPollOwed hs).complete s.r
  case s1 => exact (h.noPollOwed hs).goto .s2 (.item 0)
  case s2 => exact (h.noPollOwed hs).stepS2
  case s3 => exact (h.noPollOwed hs).stepS3
  case s4 => exact (h.noPollOwed hs).stepS4
  case s5 =>
    exact h.enterModeInstant hs rfl
      (fun _ ht => (ht.silent (by rw [setIdx_trace, setRep_trace])).goto .s6 .symPin) fun _ ht => ht.goto .s9 (.item 0)
  case s6 => exact (h.noPollOwed hs).stepS6
  case s7 => exact h.enterModeInstant hs rfl (fun _ ht => ht.goto .s8 (.item 0)) fun _ ht => ht.goto .s8 (.item 0)
  case s8 => exact (h.noPollOwed hs).stepS8
  case s9 => exact (h.noPollOwed hs).complete false
  case t1 => exact (h.noPollOwed hs).complete (readyOut s)

theorem Disciplined.not_broken (h : Disciplined cfg s) : pollOf cfg s.trace ≠ .broken :=
  fun hbroken => pollDue_ne_broken cfg s (h.symm.trans hbroken)

/-- The reset state owes no poll, whatever was owed before (70 R251). -/
theorem Disciplined.applyReset (h : Disciplined cfg s) : Disciplined cfg (applyReset s) := by
  have hdue : pollDue cfg (Machine.applyReset s) = .free := rfl
  rw [Disciplined, hdue, applyReset_trace, pollOf_concat, pollEvent_reset cfg h.not_broken]

/-- An instant is the reset input or one action of the sequencer, and both keep the discipline. -/
theorem Disciplined.tick (hown : ownOpmode cfg = true) (h : Disciplined cfg s) : Disciplined cfg (tick cfg s) := by
  have hpass : Disciplined cfg (passInstant s) := h.congr rfl rfl rfl rfl
  rcases tick_cases cfg s with ⟨_, _, htick⟩ | ⟨_, htick⟩
  · exact htick ▸ hpass.applyReset
  · exact htick ▸ hpass.sequence hown

end

/-- Settles O57: the discipline is inductive by itself; of the premises it needs only that no configuration write goes
to REG_OPMODE. -/
theorem writeThenPollIsNeverBroken : Obligations.WriteThenPollIsNeverBroken :=
  ⟨fun _ _ hown _ _ h => h.tick hown, fun _ _ h => h.not_broken⟩

end Sys2Proof.Safety

namespace Sys2Proof.Machine

/-! ### A step that presents no instruction (70 R250, R254; log 19) -/

/-- An idle engine to which nothing is presented waits (70 R254). -/
theorem step_of_nothing_presented {s : State} (hi : s.issue = none) (hb : s.busy = false)
    (hh : s.hostIn = [] ∨ ∃ rest, s.hostIn = .idle :: rest) : step s = .next (passInstant s) := by
  rcases hh with hh | ⟨rest, hh⟩ <;> simp [step, fetch, hi, hb, hh]

/-- Reset on an idle engine (70 R250). -/
theorem step_of_reset {s : State} {rest : List HostIn} (hi : s.issue = none) (hb : s.busy = false)
    (hh : s.hostIn = .reset :: rest) : step s = .next (applyReset (passInstant s)) := by
  simp [step, fetch, hi, hb, hh]

/-- Settles O7: the three things `step` finds where no instruction is presented. -/
theorem stepWithoutAnInstruction : Obligations.StepWithoutAnInstruction := by
  refine ⟨fun s hi hb hh => step_of_nothing_presented hi hb hh, fun s hi hb hs => ?_, fun s hi hb hs => ?_⟩
  · rw [step_of_busy hi hb, if_pos (Option.isSome_iff_ne_none.mpr hs)]
  · rw [step_of_busy hi hb, if_neg (by simp [hs])]

/-! ### Reset, on an idle engine and during an operation (70 R250, R251) -/

/-- The instant at which reset is asserted, whole; the model's own fields as log 15 says. -/
theorem applyReset_passInstant_eq {s : State} {rest : List HostIn} (hh : s.hostIn = .reset :: rest) :
    applyReset (passInstant s) = { s with
      rstate := .uninit, busy := false, op := .none, step := none, done := false, result := false, err := .none,
      idSeen := 0x00, cmd := 0, fbuf := Vector.replicate 166 false, rep := 0, idx := 0, t0 := 0, pmode := .sleep,
      radioMode := none, pinCs := true, pinReset := false, pinData := false, trace := s.trace ++ [.reset],
      sub := .item 0, pollK := 0, r := false, ok := false, rdata := 0x00, lookup := none, built := none,
      hostIn := rest } := by
  simp [applyReset, passInstant, State.reset, hh]

/-- Settles O8: the step is the reset instant. -/
theorem resetInputSetsEveryField : Obligations.ResetInputSetsEveryField := fun _ _ hi hb hh => by
  rw [step_of_reset hi hb hh, applyReset_passInstant_eq hh]

/-- Every instant consumes one entry of the host's list (log 3). -/
theorem tick_hostIn (cfg : Config) (s : State) : (tick cfg s).hostIn = s.hostIn.tail := by
  rcases tick_cases cfg s with ⟨_, _, htick⟩ | ⟨_, htick⟩
  · rw [htick]; rfl
  · rw [htick, (sequence_hostBlind cfg).hostIn, passInstant_hostIn]

/-- A run that leaves the engine busy has taken all its instants, so it has consumed one entry for each. -/
theorem runOp_hostIn_of_busy (cfg : Config) (n : Nat) {s : State} (h : (runOp cfg n s).busy = true) :
    (runOp cfg n s).hostIn = s.hostIn.drop n := by
  induction n generalizing s with
  | zero => rfl
  | succ n ih =>
    cases hb : s.busy with
    | false => rw [runOp_idle cfg _ hb, hb] at h; cases h
    | true =>
      rw [runOp_busy cfg n hb] at h ⊢
      rw [ih h, tick_hostIn, List.drop_tail]

/-- A reset asserted while the operation is in progress is the run's last instant (60 R228, 70 R251). -/
theorem runOp_of_reset (cfg : Config) (n : Nat) {s : State} {rest : List HostIn} (hb : s.busy = true)
    (hh : s.hostIn = .reset :: rest) : runOp cfg (n + 1) s = applyReset (passInstant s) := by
  rw [runOp_busy cfg n hb, tick_reset cfg hh]
  exact runOp_idle cfg n rfl

/-- Settles O9: at the state reached so far the next entry of the list is the reset, which ends the run there. -/
theorem resetAbortsTheOperation : Obligations.ResetAbortsTheOperation := by
  intro cfg s quiet rest _ hlist hlen hbusy
  have hhost : (runOp cfg quiet.length s).hostIn = .reset :: rest := by
    rw [runOp_hostIn_of_busy cfg _ hbusy, hlist, List.drop_left]
  obtain ⟨n, hn⟩ := Nat.exists_eq_add_of_lt hlen
  rw [finish, hn, Nat.add_assoc, runOp_add, runOp_of_reset cfg n hbusy hhost, applyReset_passInstant_eq hhost]

end Sys2Proof.Machine
